-- ==== Sys2Proof/Word.lean ====
section
/-! DEFINITION. The word types of the block (00_scope.md R8, R11): register words, addresses, frames, bytes and levels. -/

namespace Sys2Proof

/-- A register word, `DW = 32` bits (R8). -/
abbrev Word := BitVec 32

/-- A register address, `AW = 7` bits (R8, R60): every value is in range (R61). -/
abbrev Addr := BitVec 7

/-- A command or reply frame, `FW = 40` bits (R8). -/
abbrev Frame := BitVec 40

/-- An SPI byte (R8). -/
abbrev Byte := BitVec 8

/-- A single bit or a level on a port, `true` for 1 (R13). -/
abbrev Level := Bool

end Sys2Proof
end

