-- ==== Sys2Proof/Config.lean ====
section
/-! DEFINITION. What an implementation fixes: the parameters of 00_scope.md R9 as one record of plain data, and the two
values the spec gives no default for, as constants without a body. The default values themselves stand in
Machine/RegMap.lean. -/

namespace Sys2Proof

/-- The class of a register address (10_state.md R31). -/
inductive RegClass where
  | unimpl
  | rw
  | statusRo
  deriving DecidableEq, Repr

/-- One row of the register map of R31: an implemented address with its class, write mask and reset value. An address
with no row is `unimpl` (R31: 'Every address not listed is UNIMPL with WMASK = 0'). -/
structure RegRow where
  addr : Addr
  cls : RegClass
  wmask : Word
  resetValue : Word
  deriving DecidableEq, Repr

/-- A truth function of the register file, as data: the parameter `STALL_MODE(regs)` of R9 is 'a function of the register
file to a bit'. DEDUCED: each such function is a combination of register bits (log entry 7; safe). -/
inductive RegBool where
  | const (b : Bool)
  | bit (a : Addr) (i : Fin 32)
  | not (p : RegBool)
  | and (p q : RegBool)
  | or (p q : RegBool)
  deriving DecidableEq, Repr

/-- The parameter `ACTION_ID` of R9: an injective map from the three actions to integers. -/
structure ActionIds where
  toggleStall : Int
  setDiag : Int
  resetDiag : Int
  deriving DecidableEq, Repr

/-- The implementation parameters of R9. They are carried in State and no event changes them, so that a statement about
every state is a statement about every choice of them. DESIGN CHOICE (log entry 4; safe). -/
structure Params where
  /-- `CS_ASSERT_LEVEL` (D1). -/
  csAssertLevel : Level
  /-- `REGCLASS`, `WMASK` and `RESET_VALUE` (D11 to D13). -/
  regMap : List RegRow
  /-- `T_SS`, in host cycles (D24, R189). -/
  standstillWindow : Nat
  /-- `DIR_UP_LEVEL` (D18). -/
  dirUpLevel : Level
  /-- `EN_ACTIVE_LEVEL` (D20). -/
  enActiveLevel : Level
  /-- `DEDGE_HONORED` (D17). -/
  dedgeHonored : Bool
  /-- `DIAG_ON_CLAMP` (D32). -/
  diagOnClamp : Bool
  /-- `STALL_MODE` (D26). -/
  stallMode : RegBool
  /-- `GSTAT_CLEAR_ON_READ` (D15). -/
  gstatClearOnRead : Bool
  /-- `ACTION_ID` (D28). -/
  actionId : ActionIds
  /-- `AXIS_ID` (D39). -/
  axisId : String
  deriving DecidableEq, Repr

/-- FREE VALUE, DESIGN CHOICE (log entry 5; safe). `T_SS` is OPEN: 'no default' (R9, R189), a natural number of at least 1.
The machine after reset has `T_SS = windowBeyondOne + 1`. -/
opaque Config.windowBeyondOne : Nat

/-- FREE VALUE, DESIGN CHOICE (log entry 6; safe). `AXIS_ID` is 'any value', 'instance-specific, fixed at reset' (R9). -/
opaque Config.axisId : String

end Sys2Proof
end

