-- ==== Sys2Proof/Syntax.lean ====
section
/-! DEFINITION. The inputs and outputs of the block: the configuration record (00_scope.md R10), the input events as the
host delivers them (30_encoding.md R88), the output events (R89), and the instructions, one constructor per row of
opcode_table.json. -/

namespace Sys2Proof

/-- The operand `startMM`, a real number that a valid record has finite (R10, R206). DEDUCED: the source types it as a
float, and every finite float is a rational (log entry 9). -/
inductive RealArg where
  | finite (q : Rat)
  | nonFinite
  deriving DecidableEq, Repr

/-- The configuration record of R10, as CONFIG delivers it; R206 says which are valid. -/
structure AxisConfig where
  inverted : Bool
  stepsPerMM : Int
  maxMM : Int
  startMM : RealArg
  noEndStops : Bool
  deriving DecidableEq, Repr

/-- The kind and value of an input event (R88). -/
inductive EventKind where
  | csel (v : Int)
  | byteIn (v : Int)
  | step (v : Int)
  | dir (v : Int)
  | en (v : Int)
  | timeout
  | action (id : Int) (args : List String)
  | config (c : AxisConfig)
  | reset
  deriving DecidableEq, Repr

/-- An input event: a kind with its value, and a time stamp in host cycles (R15, R88). -/
structure Event where
  kind : EventKind
  time : Nat
  deriving DecidableEq, Repr

/-- An output event (R89, R225). POSITION carries the step count as a 32-bit two's-complement integer. -/
inductive OutEvent where
  | spiByteOut (b : Byte)
  | diag (l : Level)
  | min (l : Level)
  | position (n : Word)
  deriving DecidableEq, Repr

/-- The status an ACTION event returns (R89, R200). -/
inductive ActionStatus where
  | finished
  | waiting
  | error
  deriving DecidableEq, Repr

/-- The instructions: the two frame commands of format F40, which a commit performs, and the input events, each with its
time stamp `t`. The four ACTION rows keep the event's `args`, which no action reads (R200). -/
inductive Instr where
  /-- READ: the DATA field is kept as part of the encoding and has no effect (R83, R111). -/
  | read (addr : Addr) (data : Word)
  /-- WRITE (R110). -/
  | write (addr : Addr) (data : Word)
  /-- CSEL (R101). -/
  | csel (v : Int) (t : Nat)
  /-- BYTE_IN (R106, R107). -/
  | byteIn (v : Int) (t : Nat)
  /-- STEP (R160). -/
  | step (v : Int) (t : Nat)
  /-- DIR (R164). -/
  | dir (v : Int) (t : Nat)
  /-- EN (R165). -/
  | en (v : Int) (t : Nat)
  /-- TIMEOUT (R185). -/
  | timeout (t : Nat)
  /-- ACTION with the id of ToggleStall (R202). -/
  | toggleStall (args : List String) (t : Nat)
  /-- ACTION with the id of SetDiag (R203). -/
  | setDiag (args : List String) (t : Nat)
  /-- ACTION with the id of ResetDiag (R204). -/
  | resetDiag (args : List String) (t : Nat)
  /-- ACTION with an id outside the range of ACTION_ID (R201). -/
  | actionInvalid (id : Int) (args : List String) (t : Nat)
  /-- CONFIG (R205). -/
  | config (c : AxisConfig) (t : Nat)
  /-- RESET (R250). -/
  | reset (t : Nat)
  deriving DecidableEq, Repr

end Sys2Proof
end

