-- ==== Sys2Proof/WellFormed.lean ====
section
/-! DEFINITION. Which instruction terms and which parameter records are well formed. -/

namespace Sys2Proof

/-- The integers in the range of ACTION_ID (43_actions_config.md R201). -/
def ActionIds.range (ids : ActionIds) : List Int := [ids.toggleStall, ids.setDiag, ids.resetDiag]

/-- An instruction term is well formed when it is one the encodings name: only ACTION_INVALID has a condition, that its id
is not in the range of ACTION_ID (R201). Every address, data word, integer value and record is an operand the spec gives a
meaning or a refusal to. -/
def Instr.wf (ids : ActionIds) : Instr → Bool
  | .read _ _ => true
  | .write _ _ => true
  | .csel _ _ => true
  | .byteIn _ _ => true
  | .step _ _ => true
  | .dir _ _ => true
  | .en _ _ => true
  | .timeout _ => true
  | .toggleStall _ _ => true
  | .setDiag _ _ => true
  | .resetDiag _ _ => true
  | .actionInvalid id _ _ => !(ids.range.contains id)
  | .config _ _ => true
  | .reset _ => true

/-- ACTION_ID is injective (00_scope.md R9). -/
def ActionIds.wf (ids : ActionIds) : Bool := decide ids.range.Nodup

/-- A parameter record is well formed when it meets the two conditions of R9: ACTION_ID is injective and T_SS is at
least 1. -/
def Params.wf (p : Params) : Bool := p.actionId.wf && decide (1 ≤ p.standstillWindow)

end Sys2Proof
end

