-- ==== Sys2Proof/Decode.lean ====
section
/-! DEFINITION. Decoding and encoding: the 40-bit frames (30_encoding.md R80 to R86) and the event kinds (R88, R200). -/

namespace Sys2Proof

/-- The field RW of a frame, bit 39 (R81). -/
def frameRw (f : Frame) : Bool := f.getLsbD 39

/-- The field ADDR of a frame, bits 38:32 (R81). -/
def frameAddr (f : Frame) : Addr := f.extractLsb' 32 7

/-- The field DATA of a frame, bits 31:0 (R81). -/
def frameData (f : Frame) : Word := f.extractLsb' 0 32

/-- The frame with these fields (R80). -/
def frameOf (rw : Bool) (addr : Addr) (data : Word) : Frame := (BitVec.ofBool rw ++ addr) ++ data

/-- The command a complete frame names: RW = 1 is WRITE, RW = 0 is READ, and no frame is illegal (R82, R84, R85). -/
def decodeFrame (f : Frame) : Instr :=
  if frameRw f then .write (frameAddr f) (frameData f) else .read (frameAddr f) (frameData f)

/-- Five bytes as a frame, the first byte in bits 39:32 (20_memory.md R62). -/
def frameOfBytes (b1 b2 b3 b4 b5 : Byte) : Frame := (((b1 ++ b2) ++ b3) ++ b4) ++ b5

/-- The k-th byte of a frame in wire order, k = 1..5 (R62, R63: bits 47-8k down to 40-8k); 0 from the sixth on (R117). -/
def frameByte (f : Frame) (k : Nat) : Byte := if k ≤ 5 then f.extractLsb' (40 - 8 * k) 8 else 0

/-- Why a byte sequence is no frame. -/
inductive DecodeError where
  /-- The transaction held another number of bytes than 5 (R86, 40_spi_framer.md R115). -/
  | frameLength (n : Nat)
  deriving DecidableEq, Repr

/-- The command of one transaction's bytes: exactly five bytes are a frame, any other number is rejected (R86). -/
def decodeBytes : List Byte → Except DecodeError Instr
  | [b1, b2, b3, b4, b5] => .ok (decodeFrame (frameOfBytes b1 b2 b3 b4 b5))
  | bs => .error (.frameLength bs.length)

/-- The row of opcode_table.json an ACTION event belongs to (R200): the three ids of ACTION_ID, else ACTION_INVALID. -/
def decodeAction (ids : ActionIds) (id : Int) (args : List String) (t : Nat) : Instr :=
  if id = ids.toggleStall then .toggleStall args t
  else if id = ids.setDiag then .setDiag args t
  else if id = ids.resetDiag then .resetDiag args t
  else .actionInvalid id args t

/-- The instruction an input event is (R88). -/
def decodeEvent (ids : ActionIds) (e : Event) : Instr :=
  match e.kind with
  | .csel v => .csel v e.time
  | .byteIn v => .byteIn v e.time
  | .step v => .step v e.time
  | .dir v => .dir v e.time
  | .en v => .en v e.time
  | .timeout => .timeout e.time
  | .action id args => decodeAction ids id args e.time
  | .config c => .config c e.time
  | .reset => .reset e.time

/-- What the block receives an instruction as: a command as a 40-bit frame (format F40), everything else as an input event
(format EVENT of opcode_table.json). -/
inductive Code where
  | frame (f : Frame)
  | event (e : Event)
  deriving DecidableEq, Repr

/-- The instruction a code is; every code is one (R84, R88, R200). -/
def decode (ids : ActionIds) : Code → Instr
  | .frame f => decodeFrame f
  | .event e => decodeEvent ids e

/-- The code of an instruction, from the tables of R80, R82, R88 and R200. -/
def encode (ids : ActionIds) : Instr → Code
  | .read a d => .frame (frameOf false a d)
  | .write a d => .frame (frameOf true a d)
  | .csel v t => .event { kind := .csel v, time := t }
  | .byteIn v t => .event { kind := .byteIn v, time := t }
  | .step v t => .event { kind := .step v, time := t }
  | .dir v t => .event { kind := .dir v, time := t }
  | .en v t => .event { kind := .en v, time := t }
  | .timeout t => .event { kind := .timeout, time := t }
  | .toggleStall args t => .event { kind := .action ids.toggleStall args, time := t }
  | .setDiag args t => .event { kind := .action ids.setDiag args, time := t }
  | .resetDiag args t => .event { kind := .action ids.resetDiag args, time := t }
  | .actionInvalid id args t => .event { kind := .action id args, time := t }
  | .config c t => .event { kind := .config c, time := t }
  | .reset t => .event { kind := .reset, time := t }

/-- The bytes of a frame in wire order (R80, R62). -/
def frameBytes (f : Frame) : List Byte :=
  [frameByte f 1, frameByte f 2, frameByte f 3, frameByte f 4, frameByte f 5]

/-- The instruction the decoder reads from a row's word of opcode_table.json, whose bit 39 is RW and whose bit 0 is the
last bit of DATA. The word is laid out as the five wire bytes and given to `decodeBytes`. Only the format F40 has bits: the
event rows have none (log entry 18). -/
def decodeTableWord (nbits w : Nat) : Option Instr :=
  if 1 ≤ nbits ∧ nbits ≤ 40 then
    match decodeBytes (frameBytes (BitVec.ofNat 40 (w % 2 ^ nbits))) with
    | .ok i => some i
    | .error _ => none
  else none

end Sys2Proof
end

