-- ==== Sys2Proof/Machine/RegMap.lean ====
section
/-! DEFINITION. The register map of 10_state.md R31: how the parameters give an address its class, write mask and reset
value, and the default map and parameters of R9 and R31. -/

namespace Sys2Proof.Machine
open Sys2Proof

/-- The row of an implemented address; the first one counts. -/
def findRow (rows : List RegRow) (a : Addr) : Option RegRow := rows.find? fun r => r.addr == a

/-- `REGCLASS[a]` (R31, R131): UNIMPL where no row stands. -/
def regClass (p : Params) (a : Addr) : RegClass :=
  match findRow p.regMap a with
  | some r => r.cls
  | none => .unimpl

/-- `WMASK[a]` (R31): 0 where no row stands. -/
def wmask (p : Params) (a : Addr) : Word :=
  match findRow p.regMap a with
  | some r => r.wmask
  | none => 0

/-- `RESET_VALUE[a]` (R32): 0 where no row stands. -/
def resetValue (p : Params) (a : Addr) : Word :=
  match findRow p.regMap a with
  | some r => r.resetValue
  | none => 0

/-- The word an address holds after RESET (R32, 70_reset_and_hazards.md R250): `RESET_VALUE[a]`, but 0 for UNIMPL. -/
def resetWord (p : Params) (a : Addr) : Word :=
  match regClass p a with
  | .unimpl => 0
  | .rw => resetValue p a
  | .statusRo => resetValue p a

/-- The register file after RESET (R250). -/
def resetRegs (p : Params) : Vector Word 128 := Vector.ofFn fun i => resetWord p (BitVec.ofFin i)

/-- A writable register of the default map, with the default reset value 0 (D13). -/
def rwRow (a : Addr) (mask : Word) : RegRow := { addr := a, cls := .rw, wmask := mask, resetValue := 0 }

/-- A read-only status register of the default map, with the default reset value 0 (D13). -/
def roRow (a : Addr) : RegRow := { addr := a, cls := .statusRo, wmask := 0, resetValue := 0 }

/-- The motion and current registers of the default map (R31): GCONF to VDCMIN. -/
def defaultMapLow : List RegRow :=
  [ rwRow 0x00 0x0003FFFF,   -- GCONF
    roRow 0x01,              -- GSTAT
    roRow 0x04,              -- IOIN
    rwRow 0x10 0x000F1F1F,   -- IHOLD_IRUN
    rwRow 0x11 0x000000FF,   -- TPOWERDOWN
    roRow 0x12,              -- TSTEP
    rwRow 0x13 0x000FFFFF,   -- TPWMTHRS
    rwRow 0x14 0x000FFFFF,   -- TCOOLTHRS
    rwRow 0x15 0x000FFFFF,   -- THIGH
    rwRow 0x2D 0x01FF01FF,   -- XDIRECT
    rwRow 0x33 0x007FFFFF ]  -- VDCMIN

/-- The microstep table of the default map (R31): MSLUT[0] to MSCURACT. -/
def defaultMapMicrostep : List RegRow :=
  [ rwRow 0x60 0xFFFFFFFF,   -- MSLUT[0]
    rwRow 0x61 0xFFFFFFFF,   -- MSLUT[1]
    rwRow 0x62 0xFFFFFFFF,   -- MSLUT[2]
    rwRow 0x63 0xFFFFFFFF,   -- MSLUT[3]
    rwRow 0x64 0xFFFFFFFF,   -- MSLUT[4]
    rwRow 0x65 0xFFFFFFFF,   -- MSLUT[5]
    rwRow 0x66 0xFFFFFFFF,   -- MSLUT[6]
    rwRow 0x67 0xFFFFFFFF,   -- MSLUT[7]
    rwRow 0x68 0xFFFFFFFF,   -- MSLUTSEL
    rwRow 0x69 0x00FF00FF,   -- MSLUTSTART
    roRow 0x6A,              -- MSCNT
    roRow 0x6B ]             -- MSCURACT

/-- The driver registers of the default map (R31): CHOPCONF to LOST_STEPS. -/
def defaultMapDriver : List RegRow :=
  [ rwRow 0x6C 0x7FFFFFFF,   -- CHOPCONF
    rwRow 0x6D 0x017FEF6F,   -- COOLCONF
    rwRow 0x6E 0x00FF03FF,   -- DCCTRL
    roRow 0x6F,              -- DRV_STATUS
    rwRow 0x70 0x003FFFFF,   -- PWMCONF
    roRow 0x71,              -- PWM_SCALE
    rwRow 0x72 0x00000003,   -- ENCM_CTRL
    roRow 0x73 ]             -- LOST_STEPS

/-- The default map of R31, 31 implemented addresses. The source names no address: this is the TMC2130 map that the spec
gives as the parameter's default (D12; log entry 4, unsafe for a claim about a named address). -/
def defaultRegMap : List RegRow := defaultMapLow ++ defaultMapMicrostep ++ defaultMapDriver

/-- The parameters of the machine after reset: the defaults of 00_scope.md R9 (DESIGN CHOICE, log entry 4), with the free
values for T_SS and AXIS_ID, which have none (log entries 5 and 6). -/
def defaultParams : Params where
  csAssertLevel := false
  regMap := defaultRegMap
  standstillWindow := Config.windowBeyondOne + 1
  dirUpLevel := true
  enActiveLevel := true
  dedgeHonored := false
  diagOnClamp := false
  stallMode := .bit 0x00 7
  gstatClearOnRead := true
  actionId := { toggleStall := 0, setDiag := 1, resetDiag := 2 }
  axisId := Config.axisId

end Sys2Proof.Machine
end

