-- ==== Sys2Proof/Machine/State.lean ====
section
/-! DEFINITION. The state of one block instance (10_state.md R20), the reasons a step can stop, and the state after reset
(70_reset_and_hazards.md R250, R253). -/

namespace Sys2Proof.Machine
open Sys2Proof

/-- The visualization snapshot (R45). -/
structure Snapshot where
  position : Rat
  stall : Bool
  enabled : Bool
  axis : String
  deriving DecidableEq, Repr

/-- What CONFIG gives the axis (R20, R21): the record, the upper travel bound (R38) and the signed step count (R37). -/
structure AxisState where
  cfg : AxisConfig
  maxSteps : Nat
  stepCount : BitVec 32
  deriving DecidableEq, Repr

/-- The state of the block. The first four fields are the model's own (log entries 1, 3 and 4); the others are the record
of R20. `configured`, `cfg`, `maxSteps` and `stepCount` are held together in `axis`, which holds a value exactly when the
block is configured: before CONFIG they have no value, and none may be given (R21; log entry 8). -/
structure State where
  /-- The implementation parameters (R9). No event changes them. -/
  par : Params
  /-- The input events delivered and not yet handled, oldest first (R14, R16). -/
  inbox : List Event
  /-- The output events of the latest step, in order (R16). -/
  out : List OutEvent
  /-- What the latest ACTION returned, none when the latest step was no ACTION (R89). -/
  ret : Option ActionStatus
  /-- Last level seen on CSEL (R22). -/
  csLvl : Level
  /-- Command accumulator (R23). -/
  acc : Frame
  /-- Bytes received in this transaction; 6 stands for 'more than five' (R24). -/
  nb : Fin 7
  /-- Reply latch (R25). -/
  reply : Frame
  /-- Byte-out shift register (R26). -/
  shout : Frame
  /-- The stored register words `REG[0..127]` (R31). -/
  regs : Vector Word 128
  /-- Reset flag (R27). -/
  fReset : Bool
  /-- Driver-error flag (R27). -/
  fDrvErr : Bool
  /-- Stall-guard flag (R27). -/
  sg : Bool
  /-- Standstill flag (R27). -/
  stst : Bool
  /-- Scripted override in force (R30). -/
  ovr : Bool
  /-- `cfg`, `maxSteps` and `stepCount` once configured (R21, R37, R38). -/
  axis : Option AxisState
  /-- Last level seen on STEP (R41). -/
  stepLvl : Level
  /-- Direction latch (R39). -/
  dirLvl : Level
  /-- Last level seen on EN (R40). -/
  enLvl : Level
  /-- The time stamp at which the standstill timer fires, none when it is not armed (R42). -/
  ssDeadline : Option Nat
  /-- Level of the DIAG output (R43). -/
  diag : Level
  /-- Level of the MIN output (R43). -/
  minOut : Level
  /-- Last value on the POSITION output (R43). -/
  posOut : BitVec 32
  /-- Visualization snapshot (R45). -/
  snap : Snapshot
  /-- Time stamp of the last event handled (R238). -/
  lastT : Nat
  deriving DecidableEq, Repr

/-- A fault of the machine. There is none: 'No exception crosses the block's boundary' (60_exceptions.md R220), so the type
has no constructor and no step can raise one (safe). -/
inductive Fault where
  deriving DecidableEq, Repr

/-- Why the model gives an event no meaning: the host broke its contract (R223). No state changes and the run is over.
Every one of them is safe: the model stops where the source defines nothing. -/
inductive Refusal where
  /-- An instruction the model has no meaning for yet; raised by no arm of `exec` (safe). -/
  | notModelled (mnemonic : String)
  /-- Raised by every event but RESET and CONFIG while not configured (43_actions_config.md R207; safe). -/
  | notConfigured
  /-- Raised by CONFIG while configured (R207; safe). -/
  | reconfigure
  /-- Raised by CONFIG with a record that breaks R206 (safe). -/
  | badConfig
  /-- Raised by TIMEOUT at any time other than the armed deadline (42_step_integrator.md R185; safe). -/
  | spuriousTimeout
  /-- Raised by an event whose time stamp is before the last one handled (R238; safe). -/
  | timeBackwards
  deriving DecidableEq, Repr

/-- The machine right after reset: the state that RESET produces, at time stamp 0 (R250, R253), with the parameters'
defaults and nothing delivered yet. -/
def State.reset : State where
  par := defaultParams
  inbox := []
  out := []
  ret := none
  csLvl := !defaultParams.csAssertLevel
  acc := 0
  nb := 0
  reply := 0
  shout := 0
  regs := resetRegs defaultParams
  fReset := true
  fDrvErr := false
  sg := false
  stst := false
  ovr := false
  axis := none
  stepLvl := false
  dirLvl := false
  enLvl := false
  ssDeadline := none
  diag := false
  minOut := false
  posOut := 0
  snap := { position := 0, stall := false, enabled := false == defaultParams.enActiveLevel, axis := defaultParams.axisId }
  lastT := 0

end Sys2Proof.Machine
end

