-- ==== Sys2Proof/Machine/Operands.lean ====
section
/-! DEFINITION. Operand forms: levels and bytes from integer event values, the arithmetic of positions and bounds, and the
configuration record's validity and derived values. -/

namespace Sys2Proof.Machine
open Sys2Proof

/-- `lvl(v)`: 1 if v is not 0 (00_scope.md R13). -/
def lvl (v : Int) : Level := decide (v ≠ 0)

/-- `trunc_8(v)`: the low 8 bits of an integer (R11, 40_spi_framer.md R106). -/
def trunc8 (v : Int) : Byte := BitVec.ofInt 8 v

/-- `clamp(x, lo, hi) = min(max(x, lo), hi)` (R12). -/
def clamp (x lo hi : Int) : Int := min (max x lo) hi

/-- `roundHalfAway(y)`: the integer nearest to y, a value exactly half-way rounded away from zero (42_step_integrator.md
R174). -/
def roundHalfAway (y : Rat) : Int := if 0 ≤ y then (y + 1 / 2).floor else -((-y + 1 / 2).floor)

/-- `PosToStep(x)` for the axis configuration (R174). -/
def posToStep (c : AxisConfig) (x : Rat) : Int := roundHalfAway (x * (c.stepsPerMM : Rat))

/-- `maxMM * stepsPerMM` (10_state.md R38), exact. -/
def travelBound (c : AxisConfig) : Int := c.maxMM * c.stepsPerMM

/-- The start position's condition of 43_actions_config.md R206: a finite real, and without end-stops a step count that
fits in 32 bits. -/
def startValid (c : AxisConfig) : Bool :=
  match c.startMM with
  | .finite q => !c.noEndStops || decide (-(2 ^ 31) ≤ posToStep c q ∧ posToStep c q ≤ 2 ^ 31 - 1)
  | .nonFinite => false

/-- A valid configuration record (R206). -/
def configValid (c : AxisConfig) : Bool :=
  decide (1 ≤ c.stepsPerMM ∧ 0 ≤ c.maxMM ∧ travelBound c ≤ 2 ^ 31 - 1) && startValid c

/-- `PosToStep(startMM)` (R205); a record with no finite start is refused before this is read (R206). -/
def startStep (c : AxisConfig) : Int :=
  match c.startMM with
  | .finite q => posToStep c q
  | .nonFinite => 0

/-- The axis that CONFIG sets up: the bound of R38 and the initial step count of 42_step_integrator.md R175. -/
def initialAxis (c : AxisConfig) : AxisState where
  cfg := c
  maxSteps := (travelBound c).toNat
  stepCount := BitVec.ofInt 32 (if c.noEndStops then startStep c else clamp (startStep c) 0 (travelBound c).toNat)

/-- Whether a counted step counts up: `(dirLvl XOR inv) = DIR_UP_LEVEL` (R166). -/
def countsUp (p : Params) (c : AxisConfig) (dir : Level) : Bool := (dir ^^ c.inverted) == p.dirUpLevel

/-- The step delta: +1 counting up, -1 counting down (R166). -/
def stepDelta (p : Params) (c : AxisConfig) (dir : Level) : Int := if countsUp p c dir then 1 else -1

/-- The step count before bounds: the exact integer `stepCount + delta` (R167). -/
def exactCount (p : Params) (ax : AxisState) (dir : Level) : Int := ax.stepCount.toInt + stepDelta p ax.cfg dir

/-- The step count after a counted step from the exact `n`: clamped to `[0, maxSteps]` with end-stops (R168), wrapped to
32-bit two's complement without (R169). -/
def boundedCount (ax : AxisState) (n : Int) : BitVec 32 :=
  BitVec.ofInt 32 (if ax.cfg.noEndStops then n else clamp n 0 ax.maxSteps)

/-- Whether the bounds changed the exact count `n`; never without end-stops (R167). -/
def wasClamped (ax : AxisState) (n : Int) : Bool := !ax.cfg.noEndStops && decide (clamp n 0 ax.maxSteps ≠ n)

/-- The derived position in millimetres, an exact rational (R178). -/
def axisPosition (ax : AxisState) : Rat := (ax.stepCount.toInt : Rat) / (ax.cfg.stepsPerMM : Rat)

end Sys2Proof.Machine
end

