-- ==== Sys2Proof/Machine/Flags.lean ====
section
/-! DEFINITION. Flag computations: the status byte, the live bits of status registers, the MIN level, and the register bits
that affect the block. -/

namespace Sys2Proof.Machine
open Sys2Proof

/-- The stored word `REG[a]` (00_scope.md R12, 41_register_file.md R130). -/
def State.reg (s : State) (a : Addr) : Word := s.regs[a.toNat]'a.isLt

/-- The status byte `{0000, stst, sg, fDrvErr, fReset}` (10_state.md R29, 40_spi_framer.md R109). -/
def statusByte (s : State) : Byte :=
  (((0#4 ++ BitVec.ofBool s.stst) ++ BitVec.ofBool s.sg) ++ BitVec.ofBool s.fDrvErr) ++ BitVec.ofBool s.fReset

/-- `LIVE[a]` (10_state.md R33). -/
def liveMask (a : Addr) : Word := if a = 0x01 then 0x00000003 else if a = 0x6F then 0x81000000 else 0

/-- `LiveBits(a)` (41_register_file.md R133). -/
def liveBits (s : State) (a : Addr) : Word :=
  if a = 0x01 then (BitVec.ofBool s.fDrvErr ++ BitVec.ofBool s.fReset).setWidth 32
  else if a = 0x6F then ((BitVec.ofBool s.stst).setWidth 32 <<< 31) ||| ((BitVec.ofBool s.sg).setWidth 32 <<< 24)
  else 0

/-- The level of MIN for a step count: 1 when it is at most 0 (42_step_integrator.md R171). -/
def minLevel (n : BitVec 32) : Level := decide (n.toInt ≤ 0)

/-- A truth function of the register file at its contents. -/
def evalRegBool (s : State) : RegBool → Bool
  | .const b => b
  | .bit a i => (s.reg a).getLsbD i.val
  | .not p => !evalRegBool s p
  | .and p q => evalRegBool s p && evalRegBool s q
  | .or p q => evalRegBool s p || evalRegBool s q

/-- `STALL_MODE(REG)`, by default GCONF.diag0_stall (10_state.md R35). -/
def stallModeOn (s : State) : Bool := evalRegBool s s.par.stallMode

/-- Whether both STEP edges qualify: DEDGE_HONORED and CHOPCONF.dedge (R35, 42_step_integrator.md R161). -/
def doubleEdge (s : State) : Bool := s.par.dedgeHonored && (s.reg 0x6C).getLsbD 29

/-- `Qualifies(prev, l)` (R161): the rising edge, or both edges in double-edge mode. -/
def qualifies (s : State) (prev l : Level) : Bool := if doubleEdge s then prev != l else !prev && l

end Sys2Proof.Machine
end

