-- ==== Sys2Proof/Machine/Ops.lean ====
section
/-! DEFINITION. The named operations that the meanings share: views of the state, emitting outputs, arriving at and
finishing an event. The block takes no exception and returns from none (60_exceptions.md R220, R228, R229), so there is no
entry or return operation; what stands in its place is the refusal of an event that breaks the host contract (R223), which
`arrive` and `arriveConfigured` say once for every event. -/

namespace Sys2Proof.Machine
open Sys2Proof

/-- What a meaning answers. -/
abbrev Result := Host.Outcome State Fault Refusal

/-- `configured`: CONFIG has been applied since reset (10_state.md R20). -/
def State.configured (s : State) : Bool := s.axis.isSome

/-- The framer is in the state Receiving, chip-select asserted (R22, 40_spi_framer.md R100); otherwise it is Idle. -/
def State.receiving (s : State) : Bool := s.csLvl == s.par.csAssertLevel

/-- `Enabled(s)` (R40, 42_step_integrator.md R160). -/
def State.enabled (s : State) : Bool := s.enLvl == s.par.enActiveLevel

/-- The position the snapshot shows: the derived position, 0 before CONFIG (10_state.md R45, R178). -/
def State.position (s : State) : Rat :=
  match s.axis with
  | some ax => axisPosition ax
  | none => 0

/-- The snapshot of a post-event state (R45). -/
def State.snapshot (s : State) : Snapshot where
  position := s.position
  stall := s.sg || s.stst
  enabled := s.enabled
  axis := s.par.axisId

/-- What the visualization reader sees: the stored snapshot and nothing else (R45, 60_exceptions.md R234). -/
def State.view (s : State) : Snapshot := s.snap

/-- `emit PORT(v)` (00_scope.md R12, R16). -/
def emit (o : OutEvent) (s : State) : State := { s with out := s.out ++ [o] }

/-- The DIAG events of a change of level: one on a change, none otherwise (60_exceptions.md R225). -/
def diagChange (old new : Level) : List OutEvent := if old = new then [] else [.diag new]

/-- Drive the DIAG output to a level; it is emitted only when the level changes (R225). -/
def driveDiag (l : Level) (s : State) : State := { s with diag := l, out := s.out ++ diagChange s.diag l }

/-- Emit POSITION with the step count and then MIN, whether or not either changed (42_step_integrator.md R171, R225). -/
def publishCount (n : BitVec 32) (s : State) : State :=
  emit (.min (minLevel n)) (emit (.position n) { s with posOut := n, minOut := minLevel n })

/-- The outputs and the returned status of the step before are no longer there: `out` and `ret` are those of one step
(R16; log entry 3). -/
def clearOut (s : State) : State := { s with out := [], ret := none }

/-- The end of a handled event: the snapshot is replaced as one unit (R45) and the time stamp recorded (R238). -/
def finish (t : Nat) (s : State) : State := { s with snap := s.snapshot, lastT := t }

/-- An event arrives at time `t`: refused where its time stamp goes back (R238), else handled by `body`, from a state
that shows no output yet. -/
def arrive (t : Nat) (s : State) (body : State → Result) : Result :=
  if t < s.lastT then .refused .timeBackwards else body (clearOut s)

/-- An event other than RESET and CONFIG arrives at time `t`: refused too while the block is not configured
(43_actions_config.md R207). `body` gets the configured axis. -/
def arriveConfigured (t : Nat) (s : State) (body : AxisState → State → Result) : Result :=
  arrive t s fun s1 =>
    match s1.axis with
    | some ax => body ax s1
    | none => .refused .notConfigured

/-- An event that a configured block always handles, by a state change `f` (R16). -/
def handle (t : Nat) (s : State) (f : AxisState → State → State) : Result :=
  arriveConfigured t s fun ax s1 => .next (finish t (f ax s1))

end Sys2Proof.Machine
end

