-- ==== Sys2Proof/Machine/Actions.lean ====
section
/-! DEFINITION. The scripted actions (43_actions_config.md R200 to R204); `args` is ignored by all of them. -/

namespace Sys2Proof.Machine
open Sys2Proof

/-- The status an ACTION event returns (R200). -/
def returns (r : ActionStatus) (s : State) : State := { s with ret := some r }

/-- `ToggleStall()` (R202): forces the stall-guard flag on. -/
def forceStall (s : State) : State := { s with sg := true, ovr := true }

/-- `SetDiag()` (R203): drives DIAG high. -/
def forceDiag (s : State) : State := { driveDiag true s with ovr := true }

/-- `ResetDiag()` (R204): drives DIAG low and clears the stall and standstill flags. -/
def releaseDiag (s : State) : State := { driveDiag false s with sg := false, stst := false, ovr := true }

/-- ToggleStall (R202). -/
def execToggleStall (_args : List String) (t : Nat) (s : State) : Result :=
  handle t s fun _ s1 => returns .finished (forceStall s1)

/-- SetDiag (R203). -/
def execSetDiag (_args : List String) (t : Nat) (s : State) : Result :=
  handle t s fun _ s1 => returns .finished (forceDiag s1)

/-- ResetDiag (R204). -/
def execResetDiag (_args : List String) (t : Nat) (s : State) : Result :=
  handle t s fun _ s1 => returns .finished (releaseDiag s1)

/-- ACTION_INVALID (R201): no state change, and the status Error. -/
def execActionInvalid (_id : Int) (_args : List String) (t : Nat) (s : State) : Result :=
  handle t s fun _ s1 => returns .error s1

end Sys2Proof.Machine
end

