-- ==== Sys2Proof/Machine/Configure.lean ====
section
/-! DEFINITION. CONFIG (43_actions_config.md R205 to R207) and RESET (70_reset_and_hazards.md R250, R251). -/

namespace Sys2Proof.Machine
open Sys2Proof

/-- The body of CONFIG (R205). -/
def applyConfig (c : AxisConfig) (s : State) : State :=
  let ax := initialAxis c
  publishCount ax.stepCount { s with axis := some ax, ssDeadline := none }

/-- CONFIG (R205): refused while configured (R207) and with an invalid record (R206). -/
def execConfig (c : AxisConfig) (t : Nat) (s : State) : Result :=
  arrive t s fun s1 =>
    match s1.axis with
    | some _ => .refused .reconfigure
    | none => if configValid c then .next (finish t (applyConfig c s1)) else .refused .badConfig

/-- The body of RESET (R250): every field of the block at its reset value. The parameters and the deliveries still to be
handled are not the block's and stay. -/
def resetBlock (t : Nat) (s : State) : State :=
  { s with
    csLvl := !s.par.csAssertLevel, acc := 0, nb := 0, reply := 0, shout := 0
    regs := resetRegs s.par
    fReset := true, fDrvErr := false, sg := false, stst := false, ovr := false
    axis := none
    stepLvl := false, dirLvl := false, enLvl := false, ssDeadline := none
    diag := false, minOut := false, posOut := 0
    snap := { position := 0, stall := false, enabled := false == s.par.enActiveLevel, axis := s.par.axisId }
    lastT := t }

/-- RESET (R250): accepted in every state; only a time stamp that goes back is refused (R238; log entry 11). -/
def execReset (t : Nat) (s : State) : Result := arrive t s fun s1 => .next (resetBlock t s1)

end Sys2Proof.Machine
end

