-- ==== Sys2Proof/Machine/RegisterFile.lean ====
section
/-! DEFINITION. The register-file primitives (41_register_file.md) and the frame commands READ and WRITE
(40_spi_framer.md R110, R111). -/

namespace Sys2Proof.Machine
open Sys2Proof

/-- `REG[a] <- w` (00_scope.md R12). -/
def setReg (a : Addr) (w : Word) (s : State) : State := { s with regs := s.regs.set a.toNat w a.isLt }

/-- `RegRead(a)` (R133). -/
def regRead (s : State) (a : Addr) : Word :=
  match regClass s.par a with
  | .unimpl => 0
  | .rw => s.reg a
  | .statusRo => (s.reg a &&& ~~~(liveMask a)) ||| liveBits s a

/-- A word merged under a write mask (R136). -/
def mergeWord (old d mask : Word) : Word := (old &&& ~~~mask) ||| (d &&& mask)

/-- `RegWrite(a, d)` (R136): only an RW address changes, under its write mask. -/
def regWrite (a : Addr) (d : Word) (s : State) : State :=
  match regClass s.par a with
  | .unimpl => s
  | .statusRo => s
  | .rw => setReg a (mergeWord (s.reg a) d (wmask s.par a)) s

/-- `ReadSideEffect(a)` (R134): a READ of GSTAT clears the reset flag when GSTAT_CLEAR_ON_READ. -/
def readSideEffect (a : Addr) (s : State) : State :=
  if a = 0x01 ∧ s.par.gstatClearOnRead = true then { s with fReset := false } else s

/-- The data half of the reply latch, `reply[31:0]` (10_state.md R25). -/
def State.replyData (s : State) : Word := s.reply.extractLsb' 0 32

/-- The status half of the reply latch, `reply[39:32]` (R25). -/
def State.replyStatus (s : State) : Byte := s.reply.extractLsb' 32 8

/-- Latch a reply `{status, data}` (30_encoding.md R87). -/
def latchReply (st : Byte) (d : Word) (s : State) : State := { s with reply := st ++ d }

/-- The state after `READ(addr)`: status and data are sampled before the side effect (40_spi_framer.md R111). -/
def readFrame (a : Addr) (s : State) : State := readSideEffect a (latchReply (statusByte s) (regRead s a) s)

/-- The state after `WRITE(addr, data)`: the status half is refreshed, the data half kept (R110, R112). -/
def writeFrame (a : Addr) (d : Word) (s : State) : State := latchReply (statusByte s) s.replyData (regWrite a d s)

/-- READ (R111): the body that a commit runs; the DATA field has no effect (30_encoding.md R83). -/
def execRead (a : Addr) (_data : Word) (s : State) : Result := .next (readFrame a s)

/-- WRITE (R110): the body that a commit runs. -/
def execWrite (a : Addr) (d : Word) (s : State) : Result := .next (writeFrame a d s)

end Sys2Proof.Machine
end

