-- ==== Sys2Proof/Machine/Framer.lean ====
section
/-! DEFINITION. The SPI command framer (40_spi_framer.md): CSEL, the commit, and BYTE_IN. -/

namespace Sys2Proof.Machine
open Sys2Proof

/-- Assertion edge (R102): an empty transaction, with the latched reply loaded for shifting out. -/
def assertEdge (s : State) : State :=
  { s with csLvl := s.par.csAssertLevel, acc := 0, nb := 0, shout := s.reply }

/-- `Commit(f)` (R108): the frame is decoded and run as WRITE or READ. -/
def commit (f : Frame) (s : State) : State :=
  if frameRw f then writeFrame (frameAddr f) (frameData f) s else readFrame (frameAddr f) s

/-- The framer's own fields after a de-assertion (R104): Idle, with nothing accumulated. -/
def closeTransaction (s : State) : State :=
  { s with csLvl := !s.par.csAssertLevel, acc := 0, nb := 0, shout := 0 }

/-- De-assertion edge (R104): exactly five bytes commit, any other number is dropped (R105). -/
def deassertEdge (s : State) : State := closeTransaction (if s.nb = 5 then commit s.acc s else s)

/-- A chip-select level (R101): no edge, an assertion edge or a de-assertion edge. -/
def chipSelect (l : Level) (s : State) : State :=
  if l = s.csLvl then s
  else if l = s.par.csAssertLevel then assertEdge s
  else deassertEdge s

/-- The byte counter after one more byte, saturating at 6 (R106, 10_state.md R24). -/
def countByte (n : Fin 7) : Fin 7 := if h : n.val < 6 then ⟨n.val + 1, by omega⟩ else n

/-- One byte while Receiving (R106): a byte out from the top of `shout`, and the byte in at `acc[7:0]`. -/
def shiftByte (b : Byte) (s : State) : State :=
  { emit (.spiByteOut (s.shout.extractLsb' 32 8)) s with
    shout := s.shout <<< 8
    acc := (s.acc <<< 8) ||| b.setWidth 40
    nb := countByte s.nb }

/-- A byte (R106), ignored while Idle (R107). -/
def byteArrives (b : Byte) (s : State) : State := if s.receiving then shiftByte b s else s

/-- CSEL (R101). -/
def execCsel (v : Int) (t : Nat) (s : State) : Result := handle t s fun _ s1 => chipSelect (lvl v) s1

/-- BYTE_IN (R106, R107). -/
def execByteIn (v : Int) (t : Nat) (s : State) : Result := handle t s fun _ s1 => byteArrives (trunc8 v) s1

end Sys2Proof.Machine
end

