-- ==== Sys2Proof/Machine/Integrator.lean ====
section
/-! DEFINITION. The step/direction integrator and the standstill timer (42_step_integrator.md): STEP, DIR, EN, TIMEOUT. -/

namespace Sys2Proof.Machine
open Sys2Proof

/-- The stall indication on a counted step (R167, R170): cleared, unless the step was clamped and DIAG_ON_CLAMP. -/
def stallOnStep (clamped : Bool) (s : State) : State :=
  let stall := s.par.diagOnClamp && clamped
  driveDiag stall { s with sg := stall }

/-- Arm the standstill timer for a step at time `t`, replacing any earlier deadline (R184, 10_state.md R42). -/
def armTimer (t : Nat) (s : State) : State := { s with ssDeadline := some (t + s.par.standstillWindow) }

/-- `CountStep(t)` (R167): the new count, the flags (R170), the outputs (R171) and the timer (R184). -/
def countStep (t : Nat) (ax : AxisState) (s : State) : State :=
  let n := exactCount s.par ax s.dirLvl
  let n' := boundedCount ax n
  armTimer t (publishCount n' (stallOnStep (wasClamped ax n)
    { s with axis := some { ax with stepCount := n' }, stst := false, ovr := false }))

/-- A level on STEP (R160): tracked always (R162), counted on a qualifying edge while enabled. -/
def stepArrives (l : Level) (t : Nat) (ax : AxisState) (s : State) : State :=
  if qualifies s s.stepLvl l && s.enabled then countStep t ax { s with stepLvl := l } else { s with stepLvl := l }

/-- The standstill timer fires (R185, R186): `stst` is set, and DIAG asserted when STALL_MODE is 1 and no scripted override
is in force. -/
def standstill (s : State) : State :=
  driveDiag (s.diag || (!s.ovr && stallModeOn s)) { s with ssDeadline := none, stst := true }

/-- The direction latch takes a level (R164). -/
def latchDir (l : Level) (s : State) : State := { s with dirLvl := l }

/-- The enable input takes a level (R165). -/
def latchEn (l : Level) (s : State) : State := { s with enLvl := l }

/-- STEP (R160). -/
def execStep (v : Int) (t : Nat) (s : State) : Result := handle t s fun ax s1 => stepArrives (lvl v) t ax s1

/-- DIR (R164). -/
def execDir (v : Int) (t : Nat) (s : State) : Result := handle t s fun _ s1 => latchDir (lvl v) s1

/-- EN (R165). -/
def execEn (v : Int) (t : Nat) (s : State) : Result := handle t s fun _ s1 => latchEn (lvl v) s1

/-- TIMEOUT (R185): refused at any time other than the armed deadline. -/
def execTimeout (t : Nat) (s : State) : Result :=
  arriveConfigured t s fun _ s1 =>
    if s1.ssDeadline = some t then .next (finish t (standstill s1)) else .refused .spuriousTimeout

end Sys2Proof.Machine
end

