-- ==== Sys2Proof/Machine/Dispatch.lean ====
section
/-! DEFINITION. One arm per row of opcode_table.json, each one call of that instruction's meaning. -/

namespace Sys2Proof.Machine
open Sys2Proof

def exec (i : Instr) (s : State) : Host.Outcome State Fault Refusal :=
  match i with
  -- the frame commands
  | .read addr data => Sys2Proof.Machine.execRead addr data s
  | .write addr data => Sys2Proof.Machine.execWrite addr data s
  -- the framer's events
  | .csel v t => Sys2Proof.Machine.execCsel v t s
  | .byteIn v t => Sys2Proof.Machine.execByteIn v t s
  -- the integrator's events
  | .step v t => Sys2Proof.Machine.execStep v t s
  | .dir v t => Sys2Proof.Machine.execDir v t s
  | .en v t => Sys2Proof.Machine.execEn v t s
  | .timeout t => Sys2Proof.Machine.execTimeout t s
  -- the scripted actions
  | .toggleStall args t => Sys2Proof.Machine.execToggleStall args t s
  | .setDiag args t => Sys2Proof.Machine.execSetDiag args t s
  | .resetDiag args t => Sys2Proof.Machine.execResetDiag args t s
  | .actionInvalid id args t => Sys2Proof.Machine.execActionInvalid id args t s
  -- configuration and reset
  | .config c t => Sys2Proof.Machine.execConfig c t s
  | .reset t => Sys2Proof.Machine.execReset t s

end Sys2Proof.Machine
end

