-- ==== Sys2Proof/Machine/Fetch.lean ====
section
/-! DEFINITION. How a step gets its instruction: the oldest delivered event, and how one frame is placed so that the next
step commits it. -/

namespace Sys2Proof.Machine
open Sys2Proof

/-- The oldest event delivered and the state without it (00_scope.md R16, 60_exceptions.md R227: one event at a time, in the
host's order). -/
def takeEvent (s : State) : Option (Event × State) :=
  match s.inbox with
  | e :: rest => some (e, { s with inbox := rest })
  | [] => none

/-- The smallest valid configuration (43_actions_config.md R206), for a frame placed in an unconfigured block. -/
def smallestConfig : AxisConfig :=
  { inverted := false, stepsPerMM := 1, maxMM := 0, startMM := .finite 0, noEndStops := false }

/-- The state with the frame `f` received whole: configured, Receiving, five bytes accumulated, and the de-asserting CSEL
as the next event (R104; log entry 13). -/
def placeFrame (f : Frame) (s : State) : State :=
  { s with
    axis := some (s.axis.getD (initialAxis smallestConfig))
    csLvl := s.par.csAssertLevel
    acc := f
    nb := 5
    inbox := { kind := .csel (if s.par.csAssertLevel then 0 else 1), time := s.lastT } :: s.inbox }

end Sys2Proof.Machine
end

