-- ==== Sys2Proof/Machine/Step.lean ====
section
/-! DEFINITION. One step: the oldest delivered event, decoded and run (00_scope.md R16). -/

namespace Sys2Proof.Machine
open Sys2Proof

/-- One step handles one input event completely (R16). With nothing delivered the block does nothing, and shows no output
(log entry 2). -/
def step (s : State) : Host.Outcome State Fault Refusal :=
  match takeEvent s with
  | some (e, s1) => exec (decodeEvent s.par.actionId e) s1
  | none => .next (clearOut s)

/-- The state whose next step commits the frame that `decodeTableWord` reads from this row's word (log entry 13). A row of
format EVENT has no bits, and the state is then unchanged. -/
def State.withFetchWord (s : State) (nbits w : Nat) : State :=
  if 1 ≤ nbits ∧ nbits ≤ 40 then placeFrame (BitVec.ofNat 40 (w % 2 ^ nbits)) s else s

end Sys2Proof.Machine
end

