-- ==== Sys2Proof/Safety.lean ====
section
/-! DEFINITION. The terms in which claims are stated: which fields two states share, sequences of instructions and their
outputs, the host's duties, and the invariants of the block. -/

namespace Sys2Proof.Machine
open Sys2Proof

/-! ### Frames -/

/-- The framer's fields are the same (40_spi_framer.md R100). -/
def SameFramer (s s' : State) : Prop :=
  s'.csLvl = s.csLvl ∧ s'.acc = s.acc ∧ s'.nb = s.nb ∧ s'.shout = s.shout ∧ s'.reply = s.reply

/-- The four status flags and the override flag are the same (10_state.md R27, R30). -/
def SameFlags (s s' : State) : Prop :=
  s'.fReset = s.fReset ∧ s'.fDrvErr = s.fDrvErr ∧ s'.sg = s.sg ∧ s'.stst = s.stst ∧ s'.ovr = s.ovr

/-- The axis, the input levels and the timer are the same (R37 to R42). -/
def SameIntegrator (s s' : State) : Prop :=
  s'.axis = s.axis ∧ s'.stepLvl = s.stepLvl ∧ s'.dirLvl = s.dirLvl ∧ s'.enLvl = s.enLvl ∧ s'.ssDeadline = s.ssDeadline

/-- The output levels are the same (R43). -/
def SameOutputs (s s' : State) : Prop := s'.diag = s.diag ∧ s'.minOut = s.minOut ∧ s'.posOut = s.posOut

/-- The parameters and the deliveries still to be handled are the same (the model's own fields). -/
def SameOwn (s s' : State) : Prop := s'.par = s.par ∧ s'.inbox = s.inbox

/-- The end of an event handled at time `t`: the time stamp and the snapshot of the post-event state (R45, R238). -/
def Recorded (t : Nat) (s' : State) : Prop := s'.lastT = t ∧ s'.snap = s'.snapshot

/-- A configured block that an event of time `t` reaches in order (43_actions_config.md R207, 60_exceptions.md R238). -/
def Ready (s : State) (t : Nat) : Prop := s.configured = true ∧ s.lastT ≤ t

/-- Everything but the framer's fields, the register file and the fields an event always writes is the same. -/
def SameOutsideFramer (s s' : State) : Prop :=
  SameFlags s s' ∧ SameIntegrator s s' ∧ SameOutputs s s' ∧ SameOwn s s'

/-- A level `l` arriving on STEP is a qualifying edge (42_step_integrator.md R161): a rising edge, or any edge when
DEDGE_HONORED and CHOPCONF.dedge is 1. -/
def StepEdge (s : State) (l : Level) : Prop :=
  (s.stepLvl = false ∧ l = true) ∨
  (s.par.dedgeHonored = true ∧ (s.reg 0x6C).getLsbD 29 = true ∧ s.stepLvl ≠ l)

/-- The status byte at the top of a latched reply shows these flags, its upper four bits 0 (10_state.md R29,
30_encoding.md R87). -/
def StatusShows (reply : Frame) (s : State) : Prop :=
  reply.getLsbD 32 = s.fReset ∧ reply.getLsbD 33 = s.fDrvErr ∧ reply.getLsbD 34 = s.sg ∧ reply.getLsbD 35 = s.stst ∧
  reply.extractLsb' 36 4 = 0

end Sys2Proof.Machine

/-! ### Sequences of instructions -/

namespace Sys2Proof

/-- The time stamp of an event; the frame commands have none (00_scope.md R15). -/
def Instr.time? : Instr → Option Nat
  | .read _ _ => none
  | .write _ _ => none
  | .csel _ t => some t
  | .byteIn _ t => some t
  | .step _ t => some t
  | .dir _ t => some t
  | .en _ t => some t
  | .timeout t => some t
  | .toggleStall _ t => some t
  | .setDiag _ t => some t
  | .resetDiag _ t => some t
  | .actionInvalid _ _ t => some t
  | .config _ t => some t
  | .reset t => some t

/-- The rows of opcode_table.json, to name groups of instructions. -/
inductive Row where
  | read
  | write
  | csel
  | byteIn
  | step
  | dir
  | en
  | timeout
  | toggleStall
  | setDiag
  | resetDiag
  | actionInvalid
  | config
  | reset
  deriving DecidableEq, Repr

/-- The row an instruction belongs to. -/
def Instr.row : Instr → Row
  | .read _ _ => .read
  | .write _ _ => .write
  | .csel _ _ => .csel
  | .byteIn _ _ => .byteIn
  | .step _ _ => .step
  | .dir _ _ => .dir
  | .en _ _ => .en
  | .timeout _ => .timeout
  | .toggleStall _ _ => .toggleStall
  | .setDiag _ _ => .setDiag
  | .resetDiag _ _ => .resetDiag
  | .actionInvalid _ _ _ => .actionInvalid
  | .config _ _ => .config
  | .reset _ => .reset

/-- The instruction is a frame command, the body of a commit and no event of its own (R108). -/
def Instr.isFrame (i : Instr) : Bool := [Row.read, .write].contains i.row

/-- The instruction belongs to the framer (42_step_integrator.md R180: 'the framer's events'). -/
def Instr.isFramers (i : Instr) : Bool := [Row.read, .write, .csel, .byteIn].contains i.row

/-- The instruction is one of the four ACTION rows (43_actions_config.md R200). -/
def Instr.isAction (i : Instr) : Bool := [Row.toggleStall, .setDiag, .resetDiag, .actionInvalid].contains i.row

/-- The instruction is one of the events that R207 refuses before CONFIG: CSEL, BYTE_IN, STEP, DIR, EN, TIMEOUT and
ACTION. -/
def Instr.needsConfig (i : Instr) : Bool :=
  [Row.csel, .byteIn, .step, .dir, .en, .timeout].contains i.row || i.isAction

end Sys2Proof

namespace Sys2Proof.Machine
open Sys2Proof

/-- The instructions of a list, one after another: the last state, and the output events of all of them in order. None as
soon as one is refused (60_exceptions.md R223: a refused run stays refused). -/
def runTrace : List Instr → State → Option (State × List OutEvent)
  | [], s => some (s, [])
  | i :: is, s =>
    match exec i s with
    | .next s1 => (runTrace is s1).map fun r => (r.1, s1.out ++ r.2)
    | .fault _ => none
    | .refused _ => none

/-- The time stamps of a list of instructions never go back, from `t0` on (00_scope.md R15). -/
def Ordered : Nat → List Instr → Prop
  | _, [] => True
  | t0, i :: is =>
    match i.time? with
    | some t => t0 ≤ t ∧ Ordered t is
    | none => Ordered t0 is

/-- The BYTE_IN events of a list of values with their time stamps. -/
def bytesIn (bs : List (Int × Nat)) : List Instr := bs.map fun b => .byteIn b.1 b.2

/-- `XFER {b1 .. bn}` (30_encoding.md R91): chip-select asserted by `von` at `t0`, the bytes, and de-asserted by `voff` at
`t1`. -/
def xfer (von : Int) (t0 : Nat) (bs : List (Int × Nat)) (voff : Int) (t1 : Nat) : List Instr :=
  .csel von t0 :: (bytesIn bs ++ [.csel voff t1])

/-- The STEP events of a list of values with their time stamps. -/
def stepsIn (vs : List (Int × Nat)) : List Instr := vs.map fun b => .step b.1 b.2

/-- How many of the levels on STEP that follow the level `prev` are qualifying edges (42_step_integrator.md R161): the rising
ones, and the falling ones too in double-edge mode. -/
def qualifyingEdges (double : Bool) : Level → List (Int × Nat) → Nat
  | _, [] => 0
  | prev, b :: bs =>
    (if (prev = false ∧ lvl b.1 = true) ∨ (double = true ∧ prev ≠ lvl b.1) then 1 else 0) +
      qualifyingEdges double (lvl b.1) bs

/-- The instruction `i` is a counted step in the state `s`: a qualifying edge on STEP while enabled (R160, R162). -/
def CountedStep (s : State) (i : Instr) : Prop :=
  ∃ v t, i = .step v t ∧ StepEdge s (lvl v) ∧ s.enabled = true

/-- The instruction `i` performs the frame command `c` in the state `s`: it is that command, or the de-asserting CSEL that
commits it (40_spi_framer.md R104, R108). -/
def Performs (s : State) (i c : Instr) : Prop :=
  i = c ∨
  ∃ v t, i = .csel v t ∧ s.receiving = true ∧ lvl v ≠ s.par.csAssertLevel ∧ s.nb = 5 ∧ decodeFrame s.acc = c

/-- No instruction of a list, run from a state, performs a WRITE to `a` or is RESET. -/
def NoWriteTo (a : Addr) : List Instr → State → Prop
  | [], _ => True
  | i :: is, s =>
    i.row ≠ .reset ∧ (∀ d, ¬ Performs s i (.write a d)) ∧ ∀ s1, exec i s = .next s1 → NoWriteTo a is s1

/-- The levels that the DIAG events of a list carry, in order. -/
def diagLevels (o : List OutEvent) : List Level :=
  o.filterMap fun e =>
    match e with
    | .diag l => some l
    | .spiByteOut _ => none
    | .min _ => none
    | .position _ => none

/-- The levels that the MIN events of a list carry, in order. -/
def minLevels (o : List OutEvent) : List Level :=
  o.filterMap fun e =>
    match e with
    | .min l => some l
    | .spiByteOut _ => none
    | .diag _ => none
    | .position _ => none

/-- The counts that the POSITION events of a list carry, in order. -/
def positionValues (o : List OutEvent) : List (BitVec 32) :=
  o.filterMap fun e =>
    match e with
    | .position n => some n
    | .spiByteOut _ => none
    | .diag _ => none
    | .min _ => none

/-- The bytes that the SPI_BYTE_OUT events of a list carry, in order. -/
def bytesOut (o : List OutEvent) : List Byte :=
  o.filterMap fun e =>
    match e with
    | .spiByteOut b => some b
    | .diag _ => none
    | .min _ => none
    | .position _ => none

/-! ### The default register table -/

/-- The RW rows of the table of 10_state.md R31, with their write masks. -/
def tableWritable : List (Addr × Word) :=
  [(0x00, 0x0003FFFF), (0x10, 0x000F1F1F), (0x11, 0x000000FF), (0x13, 0x000FFFFF), (0x14, 0x000FFFFF)] ++
  [(0x15, 0x000FFFFF), (0x2D, 0x01FF01FF), (0x33, 0x007FFFFF), (0x60, 0xFFFFFFFF), (0x61, 0xFFFFFFFF)] ++
  [(0x62, 0xFFFFFFFF), (0x63, 0xFFFFFFFF), (0x64, 0xFFFFFFFF), (0x65, 0xFFFFFFFF), (0x66, 0xFFFFFFFF)] ++
  [(0x67, 0xFFFFFFFF), (0x68, 0xFFFFFFFF), (0x69, 0x00FF00FF), (0x6C, 0x7FFFFFFF), (0x6D, 0x017FEF6F)] ++
  [(0x6E, 0x00FF03FF), (0x70, 0x003FFFFF), (0x72, 0x00000003)]

/-- The STATUS_RO rows of that table; their write mask is 0. -/
def tableReadOnly : List Addr := [0x01, 0x04, 0x12, 0x6A, 0x6B, 0x6F, 0x71, 0x73]

/-! ### Invariants -/

/-- The register file's invariant (41_register_file.md R137). -/
def RegFileInv (s : State) : Prop :=
  ∀ a : Addr,
    (regClass s.par a = .unimpl → s.reg a = 0) ∧
    (regClass s.par a = .statusRo → s.reg a = resetValue s.par a) ∧
    (regClass s.par a = .rw → s.reg a &&& ~~~(wmask s.par a) = resetValue s.par a &&& ~~~(wmask s.par a))

/-- A configured axis holds a valid record, its travel bound, and with end-stops a count in `[0, maxSteps]` (R206, R38,
R176). -/
def AxisInv (s : State) : Prop :=
  ∀ ax, s.axis = some ax →
    configValid ax.cfg = true ∧
    (ax.maxSteps : Int) = ax.cfg.maxMM * ax.cfg.stepsPerMM ∧
    (ax.cfg.noEndStops = false → 0 ≤ ax.stepCount.toInt ∧ ax.stepCount.toInt ≤ ax.maxSteps)

/-- The POSITION and MIN levels show the step count (60_exceptions.md R225, R226), and 0 before CONFIG. -/
def OutputInv (s : State) : Prop :=
  match s.axis with
  | some ax => s.posOut = ax.stepCount ∧ s.minOut = decide (ax.stepCount.toInt ≤ 0)
  | none => s.posOut = 0 ∧ s.minOut = false

/-- An Idle framer holds no transaction (40_spi_framer.md R102, R104), an unconfigured block is Idle (70_reset_and_hazards.md
R260), and the latched status has its upper four bits 0 (30_encoding.md R87). -/
def FramerInv (s : State) : Prop :=
  (s.receiving = false → s.acc = 0 ∧ s.nb = 0 ∧ s.shout = 0) ∧
  (s.configured = false → s.receiving = false) ∧
  s.reply.extractLsb' 36 4 = 0

/-- An armed deadline is at most one window ahead, and there is none before CONFIG (42_step_integrator.md R184). -/
def TimerInv (s : State) : Prop :=
  (∀ d, s.ssDeadline = some d → d ≤ s.lastT + s.par.standstillWindow) ∧
  (s.configured = false → s.ssDeadline = none)

/-- The stored snapshot is the one of the present state (10_state.md R45). -/
def SnapInv (s : State) : Prop := s.snap = s.snapshot

/-- The driver-error flag is 0 (R28). -/
def DrvErrInv (s : State) : Prop := s.fDrvErr = false

/-- The host's duty about the timer (42_step_integrator.md R187): no event later than the armed deadline is handled before
the TIMEOUT. The step does not check it (60_exceptions.md R237; log entry 16). -/
def HostTimely (s : State) : Prop :=
  ∀ e rest d, s.inbox = e :: rest → s.ssDeadline = some d → e.time ≤ d

end Sys2Proof.Machine
end

