-- ==== Sys2Proof/Certificates/Slice0/Obligations.lean ====
section
/-! DEFINITION. The statements for the provers, from the numbered rules of spec/. OBLIGATIONS.json lists them with the
rules they cite. -/

open Sys2Proof Sys2Proof.Machine

/-! ### The step, reset and the invariants at reset -/

/-- One step handles the oldest delivered event, decoded, completely (R16); with nothing delivered the block does nothing
(the model's choice, log entry 2). -/
def Obligations.StepRunsDecodedEvent : Prop :=
  ∀ s : State,
    (∀ e rest, s.inbox = e :: rest → step s = exec (decodeEvent s.par.actionId e) { s with inbox := rest }) ∧
    (s.inbox = [] → step s = .next { s with out := [], ret := none })

/-- A frame placed for the next step (log entry 13) is decoded as its row and committed by that step (R104, R108). -/
def Obligations.PlacedFrameIsCommitted : Prop :=
  ∀ (s : State) (w : Nat), ∃ i s1 s',
    decodeTableWord 40 w = some i ∧ exec i s = .next s1 ∧ step (s.withFetchWord 40 w) = .next s' ∧
    s'.regs = s1.regs ∧ s'.reply = s1.reply ∧ SameFlags s1 s' ∧ SameOutputs s1 s' ∧ SameOwn s s' ∧ s'.receiving = false

/-- RESET puts every field at the value of R250, emits nothing, and is accepted in every state whose time stamp it does
not go behind (R238). -/
def Obligations.ResetRestoresEveryField : Prop :=
  ∀ (s : State) (t : Nat), s.lastT ≤ t → ∃ s', exec (.reset t) s = .next s' ∧
    s'.csLvl = !s.par.csAssertLevel ∧ s'.acc = 0 ∧ s'.nb = 0 ∧ s'.reply = 0 ∧ s'.shout = 0 ∧
    (∀ a, s'.reg a = if regClass s.par a = .unimpl then 0 else resetValue s.par a) ∧
    s'.fReset = true ∧ s'.fDrvErr = false ∧ s'.sg = false ∧ s'.stst = false ∧ s'.ovr = false ∧
    s'.configured = false ∧ s'.stepLvl = false ∧ s'.dirLvl = false ∧ s'.enLvl = false ∧ s'.ssDeadline = none ∧
    s'.diag = false ∧ s'.minOut = false ∧ s'.posOut = 0 ∧
    s'.snap = { position := 0, stall := false, enabled := false == s.par.enActiveLevel, axis := s.par.axisId } ∧
    s'.lastT = t ∧ s'.out = [] ∧ s'.ret = none ∧ SameOwn s s'

/-- The machine's first state is the one RESET produces at time stamp 0 (R253), for the parameters the model starts with
(log entry 4). -/
def Obligations.FirstStateIsResetAtTimeZero : Prop :=
  ∀ s : State, s.par = defaultParams → s.inbox = [] → s.lastT = 0 → exec (.reset 0) s = .next State.reset

/-- The invariants hold in the state after reset. -/
def Obligations.InvariantsHoldAtReset : Prop :=
  RegFileInv State.reset ∧ AxisInv State.reset ∧ OutputInv State.reset ∧ FramerInv State.reset ∧ TimerInv State.reset ∧
  SnapInv State.reset ∧ DrvErrInv State.reset

/-! ### Encodings -/

/-- Decoding the code of a well-formed instruction gives it back, for every operand (R80 to R84, R88, R200). -/
def Obligations.DecodeInvertsEncode : Prop :=
  ∀ (ids : ActionIds) (i : Instr), ids.wf = true → i.wf ids = true → decode ids (encode ids i) = i

/-- Every frame and every event is the code of exactly the instruction it decodes to, which is well formed: no frame is
illegal and no bit of it is lost (R84, R85). -/
def Obligations.EncodeInvertsDecode : Prop :=
  ∀ (ids : ActionIds) (c : Code), encode ids (decode ids c) = c ∧ (decode ids c).wf ids = true

/-- The first byte of a WRITE to `a` is `0x80 | a` and of a READ is `a`; the other four are DATA, most significant first
(R80, R82). -/
def Obligations.FirstByteSelectsCommand : Prop :=
  ∀ (a : Addr) (b2 b3 b4 b5 : Byte),
    decodeBytes [0x80 ||| a.setWidth 8, b2, b3, b4, b5] = .ok (.write a (b2 ++ b3 ++ b4 ++ b5)) ∧
    decodeBytes [a.setWidth 8, b2, b3, b4, b5] = .ok (.read a (b2 ++ b3 ++ b4 ++ b5))

/-- Words written out from R90 and the vectors of 95_test_vectors.md decode to the instruction they stand for. -/
def Obligations.WrittenOutWordsDecode : Prop :=
  decodeBytes [0xEC, 0x00, 0x01, 0x00, 0xC3] = .ok (.write 0x6C 0x000100C3) ∧
  decodeBytes [0x6F, 0x00, 0x00, 0x00, 0x00] = .ok (.read 0x6F 0) ∧
  decodeBytes [0x90, 0x00, 0x07, 0x1F, 0x10] = .ok (.write 0x10 0x00071F10) ∧
  decodeBytes [0x90, 0x00, 0x07, 0x1F] = .error (.frameLength 4) ∧
  decodeEvent defaultParams.actionId { kind := .action 1 [], time := 5 } = .setDiag [] 5 ∧
  decodeEvent defaultParams.actionId { kind := .action 7 [], time := 5 } = .actionInvalid 7 [] 5

/-! ### The framer -/

/-- The assertion edge starts an empty transaction and loads the latched reply (R102). -/
def Obligations.AssertEdgeLoadsReply : Prop :=
  ∀ (s : State) (v : Int) (t : Nat), Ready s t → s.receiving = false → lvl v = s.par.csAssertLevel →
    ∃ s', exec (.csel v t) s = .next s' ∧ s'.receiving = true ∧ s'.acc = 0 ∧ s'.nb = 0 ∧ s'.shout = s.reply ∧
      s'.reply = s.reply ∧ s'.regs = s.regs ∧ SameOutsideFramer s s' ∧ s'.out = [] ∧ s'.ret = none ∧ Recorded t s'

/-- The de-assertion edge with exactly five bytes runs the command of the accumulated frame and leaves the framer Idle
(R104, R108). -/
def Obligations.DeassertCommitsFiveBytes : Prop :=
  ∀ (s : State) (v : Int) (t : Nat), Ready s t → s.receiving = true → lvl v ≠ s.par.csAssertLevel → s.nb = 5 →
    ∃ s1 s', exec (decodeFrame s.acc) s = .next s1 ∧ exec (.csel v t) s = .next s' ∧
      s'.receiving = false ∧ s'.acc = 0 ∧ s'.nb = 0 ∧ s'.shout = 0 ∧ s'.reply = s1.reply ∧ s'.regs = s1.regs ∧
      SameFlags s1 s' ∧ SameIntegrator s s' ∧ SameOutputs s s' ∧ SameOwn s s' ∧
      s'.out = [] ∧ s'.ret = none ∧ Recorded t s'

/-- The de-assertion edge with any other number of bytes changes only the framer's own fields (R105). -/
def Obligations.DeassertDropsOtherLengths : Prop :=
  ∀ (s : State) (v : Int) (t : Nat), Ready s t → s.receiving = true → lvl v ≠ s.par.csAssertLevel → s.nb ≠ 5 →
    ∃ s', exec (.csel v t) s = .next s' ∧ s'.receiving = false ∧ s'.acc = 0 ∧ s'.nb = 0 ∧ s'.shout = 0 ∧
      s'.reply = s.reply ∧ s'.regs = s.regs ∧ SameOutsideFramer s s' ∧ s'.out = [] ∧ s'.ret = none ∧ Recorded t s'

/-- A CSEL at the level already held is not an edge (R101, R116). -/
def Obligations.RepeatedChipSelectIsNoEdge : Prop :=
  ∀ (s : State) (v : Int) (t : Nat), Ready s t → lvl v = s.csLvl →
    ∃ s', exec (.csel v t) s = .next s' ∧ SameFramer s s' ∧ s'.regs = s.regs ∧ SameOutsideFramer s s' ∧
      s'.out = [] ∧ s'.ret = none ∧ Recorded t s'

/-- A byte while Receiving: the top byte of `shout` goes out, the low 8 bits of the value enter `acc`, and the counter
saturates at 6 (R106). -/
def Obligations.ByteInShiftsOneByte : Prop :=
  ∀ (s : State) (v : Int) (t : Nat), Ready s t → s.receiving = true →
    ∃ s', exec (.byteIn v t) s = .next s' ∧ s'.out = [.spiByteOut (s.shout.extractLsb' 32 8)] ∧
      s'.shout.toNat = s.shout.toNat * 256 % 2 ^ 40 ∧
      s'.acc.toNat = (s.acc.toNat * 256 + (v % 256).toNat) % 2 ^ 40 ∧
      s'.nb.val = min (s.nb.val + 1) 6 ∧ s'.csLvl = s.csLvl ∧ s'.reply = s.reply ∧
      s'.regs = s.regs ∧ SameOutsideFramer s s' ∧ s'.ret = none ∧ Recorded t s'

/-- A byte while Idle is ignored and nothing goes out (R107). -/
def Obligations.ByteInIdleIsIgnored : Prop :=
  ∀ (s : State) (v : Int) (t : Nat), Ready s t → s.receiving = false →
    ∃ s', exec (.byteIn v t) s = .next s' ∧ SameFramer s s' ∧ s'.regs = s.regs ∧ SameOutsideFramer s s' ∧
      s'.out = [] ∧ s'.ret = none ∧ Recorded t s'

/-- In a transaction of any length the k-th byte out is the k-th byte of the reply latched before it, and 0x00 from the
sixth on; the latch is not changed (R63, R117). -/
def Obligations.TransactionShiftsOutReply : Prop :=
  ∀ (s : State) (von : Int) (t0 : Nat) (bs : List (Int × Nat)),
    Ready s t0 → s.receiving = false → lvl von = s.par.csAssertLevel → Ordered t0 (bytesIn bs) →
    ∃ s', runTrace (.csel von t0 :: bytesIn bs) s =
        some (s', (List.range bs.length).map fun k => .spiByteOut (frameByte s.reply (k + 1))) ∧
      s'.reply = s.reply ∧ s'.receiving = true ∧ s'.nb.val = min bs.length 6

/-- A transaction of exactly five bytes runs the command those bytes are, and sends the reply latched before it (R62, R104,
R108, R118). -/
def Obligations.FiveByteTransferRunsItsCommand : Prop :=
  ∀ (s : State) (von voff : Int) (t0 t1 : Nat) (bs : List (Int × Nat)),
    Ready s t0 → s.receiving = false → lvl von = s.par.csAssertLevel → lvl voff ≠ s.par.csAssertLevel →
    bs.length = 5 → Ordered t0 (bytesIn bs ++ [.csel voff t1]) →
    ∃ i s1 s' o, decodeBytes (bs.map fun b => trunc8 b.1) = .ok i ∧ exec i s = .next s1 ∧
      runTrace (xfer von t0 bs voff t1) s = some (s', o) ∧ o = (frameBytes s.reply).map OutEvent.spiByteOut ∧
      s'.reply = s1.reply ∧ s'.regs = s1.regs ∧ SameFlags s1 s' ∧ SameIntegrator s s' ∧ SameOutputs s s' ∧
      s'.receiving = false

/-- A transaction of any other length leaves registers, reply, flags, integrator and output levels as they were (R115). -/
def Obligations.OtherLengthTransferIsDropped : Prop :=
  ∀ (s : State) (von voff : Int) (t0 t1 : Nat) (bs : List (Int × Nat)),
    Ready s t0 → s.receiving = false → lvl von = s.par.csAssertLevel → lvl voff ≠ s.par.csAssertLevel →
    bs.length ≠ 5 → Ordered t0 (bytesIn bs ++ [.csel voff t1]) →
    ∃ s' o, runTrace (xfer von t0 bs voff t1) s = some (s', o) ∧ s'.reply = s.reply ∧ s'.regs = s.regs ∧
      SameOutsideFramer s s' ∧ s'.receiving = false

/-! ### The register file and the frame commands -/

/-- READ latches the status, sampled before its side effect, and the register's word; a READ of 0x01 then clears the reset
flag when GSTAT_CLEAR_ON_READ; nothing else changes (R111, R134). That it does so even where REGCLASS makes 0x01 UNIMPL, which
R135 denies, is the model's reading (log entry 19). -/
def Obligations.ReadLatchesReply : Prop :=
  ∀ (s : State) (a : Addr) (x : Word), ∃ s', exec (.read a x) s = .next s' ∧
    s'.reply.extractLsb' 0 32 = regRead s a ∧ StatusShows s'.reply s ∧
    s'.fReset = (if a = 0x01 ∧ s.par.gstatClearOnRead = true then false else s.fReset) ∧
    s'.fDrvErr = s.fDrvErr ∧ s'.sg = s.sg ∧ s'.stst = s.stst ∧ s'.ovr = s.ovr ∧ s'.regs = s.regs ∧
    s'.csLvl = s.csLvl ∧ s'.acc = s.acc ∧ s'.nb = s.nb ∧ s'.shout = s.shout ∧
    SameIntegrator s s' ∧ SameOutputs s s' ∧ SameOwn s s' ∧
    s'.out = s.out ∧ s'.ret = s.ret ∧ s'.snap = s.snap ∧ s'.lastT = s.lastT

/-- The DATA field of a READ frame has no effect (R83). -/
def Obligations.ReadIgnoresData : Prop :=
  ∀ (s : State) (a : Addr) (x y : Word), exec (.read a x) s = exec (.read a y) s

/-- WRITE merges the data into an RW register under its write mask and into no other; it refreshes the status half of the
reply and keeps the data half, and changes nothing else (R110, R136). -/
def Obligations.WriteMergesUnderMask : Prop :=
  ∀ (s : State) (a : Addr) (d : Word), ∃ s', exec (.write a d) s = .next s' ∧
    (∀ b, b ≠ a → s'.reg b = s.reg b) ∧
    (regClass s.par a = .rw → ∀ i, i < 32 →
      (s'.reg a).getLsbD i = if (wmask s.par a).getLsbD i then d.getLsbD i else (s.reg a).getLsbD i) ∧
    (regClass s.par a ≠ .rw → s'.reg a = s.reg a) ∧
    s'.reply.extractLsb' 0 32 = s.reply.extractLsb' 0 32 ∧ StatusShows s'.reply s ∧
    s'.csLvl = s.csLvl ∧ s'.acc = s.acc ∧ s'.nb = s.nb ∧ s'.shout = s.shout ∧ SameOutsideFramer s s' ∧
    s'.out = s.out ∧ s'.ret = s.ret ∧ s'.snap = s.snap ∧ s'.lastT = s.lastT

/-- What a register reads as, by its class, bit by bit (R133). -/
def Obligations.RegReadFollowsClass : Prop :=
  ∀ (s : State) (a : Addr),
    (regClass s.par a = .unimpl → regRead s a = 0) ∧
    (regClass s.par a = .rw → regRead s a = s.reg a) ∧
    (regClass s.par a = .statusRo → ∀ i, i < 32 → (regRead s a).getLsbD i =
      if a = 0x01 ∧ i = 0 then s.fReset
      else if a = 0x01 ∧ i = 1 then s.fDrvErr
      else if a = 0x6F ∧ i = 24 then s.sg
      else if a = 0x6F ∧ i = 31 then s.stst
      else (s.reg a).getLsbD i)

/-- Round trip: a READ after a WRITE of an RW register, each run as a frame command or by the CSEL that commits it, with no
other WRITE to that register and no RESET between, latches the written data inside the mask and the reset value outside it,
which is the data exactly when the two agree outside the mask (R138). -/
def Obligations.WriteThenReadRoundTrips : Prop :=
  ∀ (s s1 s2 s3 : State) (i j : Instr) (a : Addr) (d x : Word) (is : List Instr) (o : List OutEvent),
    RegFileInv s → regClass s.par a = .rw → Performs s i (.write a d) → exec i s = .next s1 → NoWriteTo a is s1 →
    runTrace is s1 = some (s2, o) → Performs s2 j (.read a x) → exec j s2 = .next s3 →
      s3.reply.extractLsb' 0 32 = (resetValue s.par a &&& ~~~(wmask s.par a)) ||| (d &&& wmask s.par a) ∧
      (s3.reply.extractLsb' 0 32 = d ↔ d &&& ~~~(wmask s.par a) = resetValue s.par a &&& ~~~(wmask s.par a))

/-- A WRITE to a STATUS_RO address leaves what it reads as unchanged (R139). -/
def Obligations.ReadOnlyWriteLeavesRead : Prop :=
  ∀ (s : State) (a : Addr) (d : Word), regClass s.par a = .statusRo →
    ∃ s', exec (.write a d) s = .next s' ∧ ∀ b, regRead s' b = regRead s b

/-- GSTAT: the first READ latches the reset and driver-error flags, and the one after it shows the reset flag cleared
(R142). -/
def Obligations.SecondGstatReadShowsCleared : Prop :=
  ∀ (s : State) (x y : Word), regClass s.par 0x01 = .statusRo → s.par.gstatClearOnRead = true →
    ∃ s1 s2, exec (.read 0x01 x) s = .next s1 ∧ exec (.read 0x01 y) s1 = .next s2 ∧
      s1.reply.getLsbD 0 = s.fReset ∧ s1.reply.getLsbD 1 = s.fDrvErr ∧
      s2.reply.getLsbD 0 = false ∧ s2.reply.getLsbD 1 = s.fDrvErr ∧
      s2.reply.extractLsb' 2 30 = (s.reg 0x01).extractLsb' 2 30

/-- Every step keeps the register file's invariant (R137). -/
def Obligations.StepKeepsRegisterFile : Prop :=
  ∀ s s' : State, RegFileInv s → step s = .next s' → RegFileInv s'

/-- Only a WRITE to an RW address, run as a frame command or by the CSEL that commits it, and RESET change the register file
(R132). -/
def Obligations.OnlyFramesAndResetWriteRegisters : Prop :=
  ∀ (i : Instr) (s s' : State), exec i s = .next s' → s'.regs ≠ s.regs →
    i.row = .reset ∨ ∃ a d, regClass s.par a = .rw ∧ Performs s i (.write a d)

/-- STEP, DIR, EN, TIMEOUT, the actions and CONFIG never change the framer or the register file, and the framer's events
never change the axis, the input levels or the timer (R180). -/
def Obligations.FramerAndIntegratorAreIndependent : Prop :=
  ∀ (i : Instr) (s s' : State), exec i s = .next s' →
    (i.isFramers = false → i.row ≠ .reset → SameFramer s s' ∧ s'.regs = s.regs) ∧
    (i.isFramers = true → SameIntegrator s s' ∧ SameOutputs s s')

/-! ### The integrator and the timer -/

/-- A counted step: the count moves by one and is bounded, `stst` and `ovr` are cleared, `sg` and DIAG follow the clamp,
DIAG (on a change), POSITION and MIN are emitted, and the timer is armed (R167). -/
def Obligations.CountedStepMovesAndReports : Prop :=
  ∀ (s : State) (v : Int) (t : Nat) (ax : AxisState), AxisInv s → s.axis = some ax → s.lastT ≤ t →
    StepEdge s (lvl v) → s.enLvl = s.par.enActiveLevel →
    ∃ s' ax' n, exec (.step v t) s = .next s' ∧ s'.axis = some ax' ∧
      n = ax.stepCount.toInt + (if xor s.dirLvl ax.cfg.inverted = s.par.dirUpLevel then 1 else -1) ∧
      ax'.cfg = ax.cfg ∧ ax'.maxSteps = ax.maxSteps ∧
      ax'.stepCount.toInt = (if ax.cfg.noEndStops = true then n.bmod (2 ^ 32) else min (max n 0) ax.maxSteps) ∧
      s'.stst = false ∧ s'.ovr = false ∧
      s'.sg = (s.par.diagOnClamp && !ax.cfg.noEndStops && decide (min (max n 0) ax.maxSteps ≠ n)) ∧
      s'.diag = s'.sg ∧ s'.posOut = ax'.stepCount ∧ s'.minOut = decide (ax'.stepCount.toInt ≤ 0) ∧
      s'.out = (if s'.diag = s.diag then [] else [OutEvent.diag s'.diag]) ++ [.position s'.posOut, .min s'.minOut] ∧
      s'.ssDeadline = some (t + s.par.standstillWindow) ∧ s'.stepLvl = lvl v ∧
      s'.dirLvl = s.dirLvl ∧ s'.enLvl = s.enLvl ∧ s'.fReset = s.fReset ∧ s'.fDrvErr = s.fDrvErr ∧
      SameFramer s s' ∧ s'.regs = s.regs ∧ SameOwn s s' ∧ s'.ret = none ∧ Recorded t s'

/-- A level on STEP that is no qualifying edge, or that comes while disabled, is only tracked (R162, R163). -/
def Obligations.UncountedStepOnlyTracksLevel : Prop :=
  ∀ (s : State) (v : Int) (t : Nat), Ready s t → (s.enabled = false ∨ ¬ StepEdge s (lvl v)) →
    ∃ s', exec (.step v t) s = .next s' ∧ s'.stepLvl = lvl v ∧ s'.axis = s.axis ∧ s'.dirLvl = s.dirLvl ∧
      s'.enLvl = s.enLvl ∧ s'.ssDeadline = s.ssDeadline ∧ SameFramer s s' ∧ s'.regs = s.regs ∧ SameFlags s s' ∧
      SameOutputs s s' ∧ SameOwn s s' ∧ s'.out = [] ∧ s'.ret = none ∧ Recorded t s'

/-- DIR latches its level and does nothing else (R164). -/
def Obligations.DirLatchesLevel : Prop :=
  ∀ (s : State) (v : Int) (t : Nat), Ready s t → ∃ s', exec (.dir v t) s = .next s' ∧
    (s'.dirLvl = true ↔ v ≠ 0) ∧ s'.axis = s.axis ∧ s'.stepLvl = s.stepLvl ∧ s'.enLvl = s.enLvl ∧
    s'.ssDeadline = s.ssDeadline ∧ SameFramer s s' ∧ s'.regs = s.regs ∧ SameFlags s s' ∧ SameOutputs s s' ∧
    SameOwn s s' ∧ s'.out = [] ∧ s'.ret = none ∧ Recorded t s'

/-- EN latches its level and does nothing else: the count, the latch, the flags, the outputs and a pending deadline stay,
and the snapshot's `enabled` follows (R165). -/
def Obligations.EnLatchesLevel : Prop :=
  ∀ (s : State) (v : Int) (t : Nat), Ready s t → ∃ s', exec (.en v t) s = .next s' ∧
    (s'.enLvl = true ↔ v ≠ 0) ∧ s'.axis = s.axis ∧ s'.stepLvl = s.stepLvl ∧ s'.dirLvl = s.dirLvl ∧
    s'.ssDeadline = s.ssDeadline ∧ SameFramer s s' ∧ s'.regs = s.regs ∧ SameFlags s s' ∧ SameOutputs s s' ∧
    SameOwn s s' ∧ s'.out = [] ∧ s'.ret = none ∧ Recorded t s' ∧
    (s'.snap.enabled = true ↔ s'.enLvl = s.par.enActiveLevel)

/-- TIMEOUT at the armed deadline sets `stst`, disarms the timer, and asserts DIAG only when no override is in force and
STALL_MODE is 1; at any other time it is refused (R185, R186). A STALL_MODE that is a register bit, as the default is (R35),
is that bit of the stored word. -/
def Obligations.TimeoutSetsStandstill : Prop :=
  ∀ (s : State) (t : Nat), Ready s t →
    (∀ a k, s.par.stallMode = .bit a k → stallModeOn s = (s.reg a).getLsbD k.val) ∧
    (s.ssDeadline = some t → ∃ s', exec (.timeout t) s = .next s' ∧ s'.stst = true ∧ s'.ssDeadline = none ∧
      s'.diag = (s.diag || (!s.ovr && stallModeOn s)) ∧
      s'.out = (if s'.diag = s.diag then [] else [OutEvent.diag true]) ∧
      s'.fReset = s.fReset ∧ s'.fDrvErr = s.fDrvErr ∧ s'.sg = s.sg ∧ s'.ovr = s.ovr ∧ s'.axis = s.axis ∧
      s'.stepLvl = s.stepLvl ∧ s'.dirLvl = s.dirLvl ∧ s'.enLvl = s.enLvl ∧ s'.minOut = s.minOut ∧
      s'.posOut = s.posOut ∧ SameFramer s s' ∧ s'.regs = s.regs ∧ SameOwn s s' ∧ s'.ret = none ∧ Recorded t s') ∧
    (s.ssDeadline ≠ some t → exec (.timeout t) s = .refused .spuriousTimeout)

/-- Every step keeps the axis invariant; with end-stops the count stays in `[0, maxSteps]` (R176). -/
def Obligations.StepKeepsCountInBounds : Prop :=
  ∀ s s' : State, AxisInv s → step s = .next s' → AxisInv s'

/-- Counting law: any sequence of STEP events in a fixed direction, enabled, moves the count by the number of its qualifying
edges, wrapped without end-stops and stopped at the bound with them (R161, R173). -/
def Obligations.StepTrainObeysCountingLaw : Prop :=
  ∀ (s : State) (ax : AxisState) (vs : List (Int × Nat)) (k : Int), AxisInv s → s.axis = some ax → s.enabled = true →
    Ordered s.lastT (stepsIn vs) → k = qualifyingEdges (doubleEdge s) s.stepLvl vs →
    ∃ s' o ax', runTrace (stepsIn vs) s = some (s', o) ∧ s'.axis = some ax' ∧ ax'.cfg = ax.cfg ∧
      ax'.maxSteps = ax.maxSteps ∧
      ax'.stepCount.toInt =
        (if ax.cfg.noEndStops = true then
          (if countsUp s.par ax.cfg s.dirLvl = true then ax.stepCount.toInt + k
            else ax.stepCount.toInt - k).bmod (2 ^ 32)
        else if countsUp s.par ax.cfg s.dirLvl = true then min (ax.stepCount.toInt + k) ax.maxSteps
        else max (ax.stepCount.toInt - k) 0)

/-- The timer fires once per arming: after a TIMEOUT, and as long as no STEP comes, no further TIMEOUT is handled (R184,
R185, R188). -/
def Obligations.TimerFiresOncePerArming : Prop :=
  ∀ (s : State) (d d' : Nat) (is : List Instr), (∀ i ∈ is, i.row ≠ .step) →
    runTrace (.timeout d :: (is ++ [.timeout d'])) s = none

/-- Only TIMEOUT sets `stst`, and only a counted step, ResetDiag and RESET clear it (R28, R188). -/
def Obligations.StandstillFlagLifetime : Prop :=
  ∀ (i : Instr) (s s' : State), exec i s = .next s' →
    (s.stst = false → s'.stst = true → ∃ t, i = .timeout t ∧ s.ssDeadline = some t) ∧
    (s.stst = true → s'.stst = false → CountedStep s i ∨ i.row = .resetDiag ∨ i.row = .reset)

/-- The timer is armed by counted steps alone, each replacing an earlier deadline; TIMEOUT, CONFIG and RESET leave it
unarmed and nothing else changes it (R184). -/
def Obligations.OnlyCountedStepsArmTimer : Prop :=
  ∀ (i : Instr) (s s' : State), exec i s = .next s' →
    (∀ v t, i = .step v t → StepEdge s (lvl v) → s.enabled = true →
      s'.ssDeadline = some (t + s.par.standstillWindow)) ∧
    (i.row = .timeout ∨ i.row = .config ∨ i.row = .reset → s'.ssDeadline = none) ∧
    (s'.ssDeadline ≠ s.ssDeadline → s'.ssDeadline ≠ none → CountedStep s i) ∧
    (s'.ssDeadline ≠ s.ssDeadline → s'.ssDeadline = none →
      i.row = .timeout ∨ i.row = .config ∨ i.row = .reset)

/-- Every step keeps the timer's invariant (R184). -/
def Obligations.StepKeepsTimerInvariant : Prop :=
  ∀ s s' : State, TimerInv s → step s = .next s' → TimerInv s'

/-- PosToStep is the nearest integer to `x * stepsPerMM`, and half-way values go away from zero (R174). -/
def Obligations.PosToStepIsNearest : Prop :=
  ∀ (c : AxisConfig) (x : Rat),
    |(posToStep c x : Rat) - x * (c.stepsPerMM : Rat)| ≤ 1 / 2 ∧
    (|(posToStep c x : Rat) - x * (c.stepsPerMM : Rat)| = 1 / 2 →
      |x * (c.stepsPerMM : Rat)| < |(posToStep c x : Rat)|)

/-- After every event of a configured block the snapshot's position is the exact quotient of the count by the scale
(R178, R179). -/
def Obligations.SnapshotPositionIsExact : Prop :=
  ∀ (i : Instr) (s s' : State) (t : Nat) (ax : AxisState), AxisInv s → i.time? = some t → exec i s = .next s' →
    s'.axis = some ax → s'.snap.position * (ax.cfg.stepsPerMM : Rat) = (ax.stepCount.toInt : Rat)

/-! ### The scripted actions -/

/-- ToggleStall forces the stall-guard flag on and marks the override (R202). -/
def Obligations.ToggleStallForcesStallGuard : Prop :=
  ∀ (s : State) (args : List String) (t : Nat), Ready s t → ∃ s', exec (.toggleStall args t) s = .next s' ∧
    s'.sg = true ∧ s'.ovr = true ∧ s'.fReset = s.fReset ∧ s'.fDrvErr = s.fDrvErr ∧ s'.stst = s.stst ∧
    SameFramer s s' ∧ s'.regs = s.regs ∧ SameIntegrator s s' ∧ SameOutputs s s' ∧ SameOwn s s' ∧
    s'.out = [] ∧ s'.ret = some .finished ∧ Recorded t s'

/-- SetDiag drives DIAG high, emitting it only if it was low, and marks the override (R203). -/
def Obligations.SetDiagRaisesDiag : Prop :=
  ∀ (s : State) (args : List String) (t : Nat), Ready s t → ∃ s', exec (.setDiag args t) s = .next s' ∧
    s'.diag = true ∧ s'.ovr = true ∧ s'.out = (if s.diag = true then [] else [OutEvent.diag true]) ∧
    s'.fReset = s.fReset ∧ s'.fDrvErr = s.fDrvErr ∧ s'.sg = s.sg ∧ s'.stst = s.stst ∧
    s'.minOut = s.minOut ∧ s'.posOut = s.posOut ∧
    SameFramer s s' ∧ s'.regs = s.regs ∧ SameIntegrator s s' ∧ SameOwn s s' ∧
    s'.ret = some .finished ∧ Recorded t s'

/-- ResetDiag drives DIAG low, emitting it only if it was high, clears `sg` and `stst`, and marks the override (R204). -/
def Obligations.ResetDiagClearsIndications : Prop :=
  ∀ (s : State) (args : List String) (t : Nat), Ready s t → ∃ s', exec (.resetDiag args t) s = .next s' ∧
    s'.diag = false ∧ s'.sg = false ∧ s'.stst = false ∧ s'.ovr = true ∧
    s'.out = (if s.diag = true then [OutEvent.diag false] else []) ∧
    s'.fReset = s.fReset ∧ s'.fDrvErr = s.fDrvErr ∧ s'.minOut = s.minOut ∧ s'.posOut = s.posOut ∧
    SameFramer s s' ∧ s'.regs = s.regs ∧ SameIntegrator s s' ∧ SameOwn s s' ∧
    s'.ret = some .finished ∧ Recorded t s'

/-- An id outside the range of ACTION_ID changes no state, emits nothing and returns Error (R201). -/
def Obligations.UnknownActionReturnsError : Prop :=
  ∀ (s : State) (id : Int) (args : List String) (t : Nat), Ready s t →
    ∃ s', exec (.actionInvalid id args t) s = .next s' ∧ s'.ret = some .error ∧ s'.out = [] ∧
      SameFramer s s' ∧ s'.regs = s.regs ∧ SameOutsideFramer s s' ∧ Recorded t s'

/-- Repeating an action, at the same or any later time and with any arguments (and, for an unknown action, any unknown id),
changes nothing but the time stamp, emits nothing and returns the same status (R202 to R204, 90_conflicts.md C4). -/
def Obligations.RepeatedActionIsIdempotent : Prop :=
  ∀ (i j : Instr) (s s1 : State) (t : Nat), i.isAction = true → exec i s = .next s1 → j.row = i.row →
    j.time? = some t → s1.lastT ≤ t → exec j s1 = .next { s1 with out := [], lastT := t }

/-- An action changes only `sg`, `stst`, `ovr`, `diag` and the snapshot (R208). -/
def Obligations.ActionsKeepInFlightState : Prop :=
  ∀ (i : Instr) (s s' : State), i.isAction = true → exec i s = .next s' →
    SameFramer s s' ∧ s'.regs = s.regs ∧ SameIntegrator s s' ∧ SameOwn s s' ∧ s'.fReset = s.fReset ∧
    s'.fDrvErr = s.fDrvErr ∧ s'.minOut = s.minOut ∧ s'.posOut = s.posOut

/-- No action returns Waiting, and nothing but an action returns a status (R200, R209). -/
def Obligations.NoActionWaits : Prop :=
  ∀ (i : Instr) (s s' : State) (t : Nat), i.time? = some t → exec i s = .next s' →
    s'.ret ≠ some .waiting ∧ (s'.ret = none ↔ i.isAction = false)

/-! ### Configuration, refusals and the host contract -/

/-- CONFIG sets up the axis: the record, the bound `maxMM * stepsPerMM`, the start position in steps (clamped with
end-stops), POSITION and MIN, and no armed timer; a second one is refused, and so is an invalid record (R205). A second one with an invalid record has two
reasons, of which R205 puts none first. -/
def Obligations.ConfigSetsUpAxis : Prop :=
  ∀ (s : State) (c : AxisConfig) (t : Nat), s.lastT ≤ t →
    (s.configured = false → configValid c = true → ∃ s' ax q,
      exec (.config c t) s = .next s' ∧ s'.axis = some ax ∧ c.startMM = .finite q ∧ ax.cfg = c ∧
      (ax.maxSteps : Int) = c.maxMM * c.stepsPerMM ∧
      ax.stepCount.toInt =
        (if c.noEndStops = true then posToStep c q else min (max (posToStep c q) 0) (c.maxMM * c.stepsPerMM)) ∧
      s'.posOut = ax.stepCount ∧ s'.minOut = decide (ax.stepCount.toInt ≤ 0) ∧
      s'.out = [.position s'.posOut, .min s'.minOut] ∧ s'.ssDeadline = none ∧ s'.configured = true ∧
      SameFramer s s' ∧ s'.regs = s.regs ∧ SameFlags s s' ∧ s'.stepLvl = s.stepLvl ∧ s'.dirLvl = s.dirLvl ∧
      s'.enLvl = s.enLvl ∧ s'.diag = s.diag ∧ SameOwn s s' ∧ s'.ret = none ∧ Recorded t s') ∧
    (s.configured = true → configValid c = true → exec (.config c t) s = .refused .reconfigure) ∧
    (s.configured = true → configValid c = false → exec (.config c t) s = .refused .reconfigure ∨
      exec (.config c t) s = .refused .badConfig) ∧
    (s.configured = false → configValid c = false → exec (.config c t) s = .refused .badConfig)

/-- Which records are valid, and that CONFIG with any other is refused (R206). -/
def Obligations.ValidRecordRange : Prop :=
  ∀ c : AxisConfig,
    (configValid c = true ↔ 1 ≤ c.stepsPerMM ∧ 0 ≤ c.maxMM ∧ c.maxMM * c.stepsPerMM ≤ 2 ^ 31 - 1 ∧
      ∃ q, c.startMM = .finite q ∧
        (c.noEndStops = true → -(2 ^ 31) ≤ posToStep c q ∧ posToStep c q ≤ 2 ^ 31 - 1)) ∧
    (∀ (s : State) (t : Nat), s.lastT ≤ t → s.configured = false → configValid c = false →
      exec (.config c t) s = .refused .badConfig)

/-- While not configured every event but RESET and CONFIG is refused, once configured every CONFIG is, and only RESET makes
the block unconfigured again (R207). Where two reasons hold at once, which one is given is the model's choice (log
entry 10). -/
def Obligations.UnconfiguredEventsAreRefused : Prop :=
  ∀ (i : Instr) (s : State) (t : Nat), i.time? = some t → s.lastT ≤ t →
    (i.needsConfig = true → s.configured = false → exec i s = .refused .notConfigured) ∧
    (i.row = .config → s.configured = true → exec i s = .refused .reconfigure) ∧
    (∀ s', exec i s = .next s' → s.configured = true → s'.configured = false → i.row = .reset)

/-- An event whose time stamp goes back is refused, and every handled event records its own (R238). That this reason comes
before the others, and that it holds of RESET too, is the model's choice (log entries 10 and 11). -/
def Obligations.BackwardTimeIsRefused : Prop :=
  ∀ (i : Instr) (s : State) (t : Nat), i.time? = some t →
    (t < s.lastT → exec i s = .refused .timeBackwards) ∧ (∀ s', exec i s = .next s' → s'.lastT = t)

/-- After every handled event the snapshot is the one of the post-event state, and it is what the reader sees (R45). -/
def Obligations.HandledEventRefreshesSnapshot : Prop :=
  ∀ (i : Instr) (s s' : State) (t : Nat), i.time? = some t → exec i s = .next s' →
    s'.view.position = (match s'.axis with
      | some ax => (ax.stepCount.toInt : Rat) / (ax.cfg.stepsPerMM : Rat)
      | none => 0) ∧
    s'.view.stall = (s'.sg || s'.stst) ∧ (s'.view.enabled = true ↔ s'.enLvl = s.par.enActiveLevel) ∧
    s'.view.axis = s.par.axisId

/-- Along any run of events without RESET each output level is the value last emitted on its port, or the one it started
with (R226). -/
def Obligations.OutputLevelsFollowEmissions : Prop :=
  ∀ (is : List Instr) (s s' : State) (o : List OutEvent),
    (∀ i ∈ is, i.isFrame = false ∧ i.row ≠ .reset) → runTrace is s = some (s', o) →
    s'.diag = (diagLevels o).getLast?.getD s.diag ∧ s'.minOut = (minLevels o).getLast?.getD s.minOut ∧
    s'.posOut = (positionValues o).getLast?.getD s.posOut

/-- Which events emit on which port (R225): one byte per BYTE_IN while Receiving, the top one of `shout` (R106); DIAG exactly when its level changes, and
only by a counted step, TIMEOUT, SetDiag and ResetDiag; POSITION and MIN by CONFIG and by every counted step, each time, with
the step count. -/
def Obligations.PortsAreDrivenByTheirEvents : Prop :=
  ∀ (i : Instr) (s s' : State) (t : Nat), i.time? = some t → exec i s = .next s' →
    bytesOut s'.out =
      (if i.row = .byteIn ∧ s.receiving = true then [s.shout.extractLsb' 32 8] else []) ∧
    (i.row ≠ .reset → diagLevels s'.out = if s'.diag = s.diag then [] else [s'.diag]) ∧
    (diagLevels s'.out ≠ [] → i.row = .timeout ∨ i.row = .setDiag ∨ i.row = .resetDiag ∨ CountedStep s i) ∧
    (positionValues s'.out ≠ [] ∨ minLevels s'.out ≠ [] → i.row = .config ∨ CountedStep s i) ∧
    (i.row = .config ∨ CountedStep s i → ∃ ax, s'.axis = some ax ∧ positionValues s'.out = [ax.stepCount] ∧
      minLevels s'.out = [decide (ax.stepCount.toInt ≤ 0)])

/-- Every step keeps POSITION and MIN showing the step count (R225, R226). -/
def Obligations.StepKeepsOutputInvariant : Prop :=
  ∀ s s' : State, OutputInv s → step s = .next s' → OutputInv s'

/-- Every step keeps an Idle framer empty, an unconfigured block Idle, and the status's upper bits 0 (R87, R104, R260). -/
def Obligations.StepKeepsFramerInvariant : Prop :=
  ∀ s s' : State, FramerInv s → step s = .next s' → FramerInv s'

/-- No instruction changes the parameters or the deliveries still to be handled, and so the class of no address changes;
only RESET writes the driver-error flag or sets the reset flag; only a READ of 0x01, run as a frame command or by the CSEL
that commits it, clears it (R28, R131). -/
def Obligations.ParametersAndResetFlagWriters : Prop :=
  ∀ (i : Instr) (s s' : State), exec i s = .next s' →
    SameOwn s s' ∧ (∀ a, regClass s'.par a = regClass s.par a) ∧
    (i.row ≠ .reset → s'.fDrvErr = s.fDrvErr) ∧
    (s.fReset = false → s'.fReset = true → i.row = .reset) ∧
    (s.fReset = true → s'.fReset = false → s.par.gstatClearOnRead = true ∧ ∃ x, Performs s i (.read 0x01 x))

/-- Only actions, counted steps and RESET move `sg`: ToggleStall sets it, a counted step that the end-stops clamp sets it
when DIAG_ON_CLAMP, and a counted step, ResetDiag and RESET clear it (R28, R167, R170, R250). -/
def Obligations.StallGuardWriters : Prop :=
  ∀ (i : Instr) (s s' : State), exec i s = .next s' →
    (s.sg = false → s'.sg = true →
      i.row = .toggleStall ∨
      (CountedStep s i ∧ s.par.diagOnClamp = true ∧ ∃ ax, s.axis = some ax ∧
        wasClamped ax (exactCount s.par ax s.dirLvl) = true)) ∧
    (s.sg = true → s'.sg = false →
      i.row = .resetDiag ∨ i.row = .reset ∨
      (CountedStep s i ∧ ∃ ax, s.axis = some ax ∧
        (s.par.diagOnClamp && wasClamped ax (exactCount s.par ax s.dirLvl)) = false))

/-! ### The default parameters -/

/-- The parameters that the machine starts with (the model's choice of them, log entry 4) are the defaults of R9: the levels,
the switches and the action ids, STALL_MODE as GCONF bit 7 (R35), T_SS at least 1 (R189), and the register map of R31, with
reset value 0 at every address (R32) and every address not listed UNIMPL. -/
def Obligations.DefaultParametersAreTheSpecs : Prop :=
  let p := defaultParams
  p.csAssertLevel = false ∧ p.dirUpLevel = true ∧ p.enActiveLevel = true ∧ p.dedgeHonored = false ∧
  p.diagOnClamp = false ∧ p.gstatClearOnRead = true ∧
  p.actionId = { toggleStall := 0, setDiag := 1, resetDiag := 2 } ∧ 1 ≤ p.standstillWindow ∧
  (∀ s : State, s.par = p → stallModeOn s = (s.reg 0x00).getLsbD 7) ∧
  (∀ r ∈ tableWritable, regClass p r.1 = .rw ∧ wmask p r.1 = r.2) ∧
  (∀ a ∈ tableReadOnly, regClass p a = .statusRo ∧ wmask p a = 0) ∧
  (∀ a : Addr, a ∉ tableWritable.map Prod.fst → a ∉ tableReadOnly → regClass p a = .unimpl ∧ wmask p a = 0) ∧
  (∀ a : Addr, resetValue p a = 0)
end

