-- ==== Sys2Proof/Laws/Decode.lean ====
section
/-! SUPPORT. The fields of a frame: reading back a field that was put in, and a frame from its fields. -/

namespace Sys2Proof

/-- A frame is the one made of its own fields (30_encoding.md R80, R81): no bit lies outside them. -/
theorem frameOf_fields (f : Frame) : frameOf (frameRw f) (frameAddr f) (frameData f) = f := by
  apply BitVec.eq_of_getLsbD_eq
  intro i hi
  simp only [frameOf, frameRw, frameAddr, frameData, BitVec.getLsbD_append, BitVec.getLsbD_extractLsb',
    BitVec.getLsbD_ofBool]
  by_cases h1 : i < 32
  · simp [h1]
  · by_cases h2 : i < 39
    · have h3 : i - 32 < 7 := by omega
      have h4 : 32 + (i - 32) = i := by omega
      simp only [h1, h3, h4, decide_true, Bool.true_and, if_true, if_false]
    · obtain rfl : i = 39 := by omega
      simp

@[simp] theorem frameRw_frameOf (r : Bool) (a : Addr) (d : Word) : frameRw (frameOf r a d) = r := by
  simp only [frameOf, frameRw, BitVec.getLsbD_append, BitVec.getLsbD_ofBool]
  simp

@[simp] theorem frameAddr_frameOf (r : Bool) (a : Addr) (d : Word) : frameAddr (frameOf r a d) = a := by
  apply BitVec.eq_of_getLsbD_eq
  intro i hi
  simp only [frameOf, frameAddr, BitVec.getLsbD_append, BitVec.getLsbD_ofBool, BitVec.getLsbD_extractLsb']
  simp [hi]

@[simp] theorem frameData_frameOf (r : Bool) (a : Addr) (d : Word) : frameData (frameOf r a d) = d := by
  apply BitVec.eq_of_getLsbD_eq
  intro i hi
  simp only [frameOf, frameData, BitVec.getLsbD_append, BitVec.getLsbD_ofBool, BitVec.getLsbD_extractLsb']
  simp [hi]

end Sys2Proof
end

