-- ==== Sys2Proof/Laws/State.lean ====
section
/-! SUPPORT. What each named operation over State does to each field, so that no later proof unfolds a record update. -/

namespace Sys2Proof.Machine
open Sys2Proof

/-! ### `emit`: only `out` grows -/

@[simp] theorem emit_par (o : OutEvent) (s : State) : (emit o s).par = s.par := rfl
@[simp] theorem emit_inbox (o : OutEvent) (s : State) : (emit o s).inbox = s.inbox := rfl
@[simp] theorem emit_out (o : OutEvent) (s : State) : (emit o s).out = s.out ++ [o] := rfl
@[simp] theorem emit_ret (o : OutEvent) (s : State) : (emit o s).ret = s.ret := rfl
@[simp] theorem emit_csLvl (o : OutEvent) (s : State) : (emit o s).csLvl = s.csLvl := rfl
@[simp] theorem emit_acc (o : OutEvent) (s : State) : (emit o s).acc = s.acc := rfl
@[simp] theorem emit_nb (o : OutEvent) (s : State) : (emit o s).nb = s.nb := rfl
@[simp] theorem emit_reply (o : OutEvent) (s : State) : (emit o s).reply = s.reply := rfl
@[simp] theorem emit_shout (o : OutEvent) (s : State) : (emit o s).shout = s.shout := rfl
@[simp] theorem emit_regs (o : OutEvent) (s : State) : (emit o s).regs = s.regs := rfl
@[simp] theorem emit_fReset (o : OutEvent) (s : State) : (emit o s).fReset = s.fReset := rfl
@[simp] theorem emit_fDrvErr (o : OutEvent) (s : State) : (emit o s).fDrvErr = s.fDrvErr := rfl
@[simp] theorem emit_sg (o : OutEvent) (s : State) : (emit o s).sg = s.sg := rfl
@[simp] theorem emit_stst (o : OutEvent) (s : State) : (emit o s).stst = s.stst := rfl
@[simp] theorem emit_ovr (o : OutEvent) (s : State) : (emit o s).ovr = s.ovr := rfl
@[simp] theorem emit_axis (o : OutEvent) (s : State) : (emit o s).axis = s.axis := rfl
@[simp] theorem emit_stepLvl (o : OutEvent) (s : State) : (emit o s).stepLvl = s.stepLvl := rfl
@[simp] theorem emit_dirLvl (o : OutEvent) (s : State) : (emit o s).dirLvl = s.dirLvl := rfl
@[simp] theorem emit_enLvl (o : OutEvent) (s : State) : (emit o s).enLvl = s.enLvl := rfl
@[simp] theorem emit_ssDeadline (o : OutEvent) (s : State) : (emit o s).ssDeadline = s.ssDeadline := rfl
@[simp] theorem emit_diag (o : OutEvent) (s : State) : (emit o s).diag = s.diag := rfl
@[simp] theorem emit_minOut (o : OutEvent) (s : State) : (emit o s).minOut = s.minOut := rfl
@[simp] theorem emit_posOut (o : OutEvent) (s : State) : (emit o s).posOut = s.posOut := rfl
@[simp] theorem emit_snap (o : OutEvent) (s : State) : (emit o s).snap = s.snap := rfl
@[simp] theorem emit_lastT (o : OutEvent) (s : State) : (emit o s).lastT = s.lastT := rfl

/-! ### `clearOut`: only the model's own outputs -/

@[simp] theorem clearOut_par (s : State) : (clearOut s).par = s.par := rfl
@[simp] theorem clearOut_inbox (s : State) : (clearOut s).inbox = s.inbox := rfl
@[simp] theorem clearOut_out (s : State) : (clearOut s).out = [] := rfl
@[simp] theorem clearOut_ret (s : State) : (clearOut s).ret = none := rfl
@[simp] theorem clearOut_csLvl (s : State) : (clearOut s).csLvl = s.csLvl := rfl
@[simp] theorem clearOut_acc (s : State) : (clearOut s).acc = s.acc := rfl
@[simp] theorem clearOut_nb (s : State) : (clearOut s).nb = s.nb := rfl
@[simp] theorem clearOut_reply (s : State) : (clearOut s).reply = s.reply := rfl
@[simp] theorem clearOut_shout (s : State) : (clearOut s).shout = s.shout := rfl
@[simp] theorem clearOut_regs (s : State) : (clearOut s).regs = s.regs := rfl
@[simp] theorem clearOut_fReset (s : State) : (clearOut s).fReset = s.fReset := rfl
@[simp] theorem clearOut_fDrvErr (s : State) : (clearOut s).fDrvErr = s.fDrvErr := rfl
@[simp] theorem clearOut_sg (s : State) : (clearOut s).sg = s.sg := rfl
@[simp] theorem clearOut_stst (s : State) : (clearOut s).stst = s.stst := rfl
@[simp] theorem clearOut_ovr (s : State) : (clearOut s).ovr = s.ovr := rfl
@[simp] theorem clearOut_axis (s : State) : (clearOut s).axis = s.axis := rfl
@[simp] theorem clearOut_stepLvl (s : State) : (clearOut s).stepLvl = s.stepLvl := rfl
@[simp] theorem clearOut_dirLvl (s : State) : (clearOut s).dirLvl = s.dirLvl := rfl
@[simp] theorem clearOut_enLvl (s : State) : (clearOut s).enLvl = s.enLvl := rfl
@[simp] theorem clearOut_ssDeadline (s : State) : (clearOut s).ssDeadline = s.ssDeadline := rfl
@[simp] theorem clearOut_diag (s : State) : (clearOut s).diag = s.diag := rfl
@[simp] theorem clearOut_minOut (s : State) : (clearOut s).minOut = s.minOut := rfl
@[simp] theorem clearOut_posOut (s : State) : (clearOut s).posOut = s.posOut := rfl
@[simp] theorem clearOut_snap (s : State) : (clearOut s).snap = s.snap := rfl
@[simp] theorem clearOut_lastT (s : State) : (clearOut s).lastT = s.lastT := rfl

/-! ### `finish`: the snapshot and the time stamp -/

@[simp] theorem finish_par (t : Nat) (s : State) : (finish t s).par = s.par := rfl
@[simp] theorem finish_inbox (t : Nat) (s : State) : (finish t s).inbox = s.inbox := rfl
@[simp] theorem finish_out (t : Nat) (s : State) : (finish t s).out = s.out := rfl
@[simp] theorem finish_ret (t : Nat) (s : State) : (finish t s).ret = s.ret := rfl
@[simp] theorem finish_csLvl (t : Nat) (s : State) : (finish t s).csLvl = s.csLvl := rfl
@[simp] theorem finish_acc (t : Nat) (s : State) : (finish t s).acc = s.acc := rfl
@[simp] theorem finish_nb (t : Nat) (s : State) : (finish t s).nb = s.nb := rfl
@[simp] theorem finish_reply (t : Nat) (s : State) : (finish t s).reply = s.reply := rfl
@[simp] theorem finish_shout (t : Nat) (s : State) : (finish t s).shout = s.shout := rfl
@[simp] theorem finish_regs (t : Nat) (s : State) : (finish t s).regs = s.regs := rfl
@[simp] theorem finish_fReset (t : Nat) (s : State) : (finish t s).fReset = s.fReset := rfl
@[simp] theorem finish_fDrvErr (t : Nat) (s : State) : (finish t s).fDrvErr = s.fDrvErr := rfl
@[simp] theorem finish_sg (t : Nat) (s : State) : (finish t s).sg = s.sg := rfl
@[simp] theorem finish_stst (t : Nat) (s : State) : (finish t s).stst = s.stst := rfl
@[simp] theorem finish_ovr (t : Nat) (s : State) : (finish t s).ovr = s.ovr := rfl
@[simp] theorem finish_axis (t : Nat) (s : State) : (finish t s).axis = s.axis := rfl
@[simp] theorem finish_stepLvl (t : Nat) (s : State) : (finish t s).stepLvl = s.stepLvl := rfl
@[simp] theorem finish_dirLvl (t : Nat) (s : State) : (finish t s).dirLvl = s.dirLvl := rfl
@[simp] theorem finish_enLvl (t : Nat) (s : State) : (finish t s).enLvl = s.enLvl := rfl
@[simp] theorem finish_ssDeadline (t : Nat) (s : State) : (finish t s).ssDeadline = s.ssDeadline := rfl
@[simp] theorem finish_diag (t : Nat) (s : State) : (finish t s).diag = s.diag := rfl
@[simp] theorem finish_minOut (t : Nat) (s : State) : (finish t s).minOut = s.minOut := rfl
@[simp] theorem finish_posOut (t : Nat) (s : State) : (finish t s).posOut = s.posOut := rfl
@[simp] theorem finish_snap (t : Nat) (s : State) : (finish t s).snap = s.snapshot := rfl
@[simp] theorem finish_lastT (t : Nat) (s : State) : (finish t s).lastT = t := rfl

/-! ### `assertEdge`: the framer's own fields (40_spi_framer.md R102) -/

@[simp] theorem assertEdge_par (s : State) : (assertEdge s).par = s.par := rfl
@[simp] theorem assertEdge_inbox (s : State) : (assertEdge s).inbox = s.inbox := rfl
@[simp] theorem assertEdge_out (s : State) : (assertEdge s).out = s.out := rfl
@[simp] theorem assertEdge_ret (s : State) : (assertEdge s).ret = s.ret := rfl
@[simp] theorem assertEdge_csLvl (s : State) : (assertEdge s).csLvl = s.par.csAssertLevel := rfl
@[simp] theorem assertEdge_acc (s : State) : (assertEdge s).acc = 0 := rfl
@[simp] theorem assertEdge_nb (s : State) : (assertEdge s).nb = 0 := rfl
@[simp] theorem assertEdge_reply (s : State) : (assertEdge s).reply = s.reply := rfl
@[simp] theorem assertEdge_shout (s : State) : (assertEdge s).shout = s.reply := rfl
@[simp] theorem assertEdge_regs (s : State) : (assertEdge s).regs = s.regs := rfl
@[simp] theorem assertEdge_fReset (s : State) : (assertEdge s).fReset = s.fReset := rfl
@[simp] theorem assertEdge_fDrvErr (s : State) : (assertEdge s).fDrvErr = s.fDrvErr := rfl
@[simp] theorem assertEdge_sg (s : State) : (assertEdge s).sg = s.sg := rfl
@[simp] theorem assertEdge_stst (s : State) : (assertEdge s).stst = s.stst := rfl
@[simp] theorem assertEdge_ovr (s : State) : (assertEdge s).ovr = s.ovr := rfl
@[simp] theorem assertEdge_axis (s : State) : (assertEdge s).axis = s.axis := rfl
@[simp] theorem assertEdge_stepLvl (s : State) : (assertEdge s).stepLvl = s.stepLvl := rfl
@[simp] theorem assertEdge_dirLvl (s : State) : (assertEdge s).dirLvl = s.dirLvl := rfl
@[simp] theorem assertEdge_enLvl (s : State) : (assertEdge s).enLvl = s.enLvl := rfl
@[simp] theorem assertEdge_ssDeadline (s : State) : (assertEdge s).ssDeadline = s.ssDeadline := rfl
@[simp] theorem assertEdge_diag (s : State) : (assertEdge s).diag = s.diag := rfl
@[simp] theorem assertEdge_minOut (s : State) : (assertEdge s).minOut = s.minOut := rfl
@[simp] theorem assertEdge_posOut (s : State) : (assertEdge s).posOut = s.posOut := rfl
@[simp] theorem assertEdge_snap (s : State) : (assertEdge s).snap = s.snap := rfl
@[simp] theorem assertEdge_lastT (s : State) : (assertEdge s).lastT = s.lastT := rfl

/-! ### `shiftByte`: one byte out and one in (R106) -/

@[simp] theorem shiftByte_par (b : Byte) (s : State) : (shiftByte b s).par = s.par := rfl
@[simp] theorem shiftByte_inbox (b : Byte) (s : State) : (shiftByte b s).inbox = s.inbox := rfl
@[simp] theorem shiftByte_out (b : Byte) (s : State) :
    (shiftByte b s).out = s.out ++ [.spiByteOut (s.shout.extractLsb' 32 8)] :=
  rfl
@[simp] theorem shiftByte_ret (b : Byte) (s : State) : (shiftByte b s).ret = s.ret := rfl
@[simp] theorem shiftByte_csLvl (b : Byte) (s : State) : (shiftByte b s).csLvl = s.csLvl := rfl
@[simp] theorem shiftByte_acc (b : Byte) (s : State) : (shiftByte b s).acc = (s.acc <<< 8) ||| b.setWidth 40 := rfl
@[simp] theorem shiftByte_nb (b : Byte) (s : State) : (shiftByte b s).nb = countByte s.nb := rfl
@[simp] theorem shiftByte_reply (b : Byte) (s : State) : (shiftByte b s).reply = s.reply := rfl
@[simp] theorem shiftByte_shout (b : Byte) (s : State) : (shiftByte b s).shout = s.shout <<< 8 := rfl
@[simp] theorem shiftByte_regs (b : Byte) (s : State) : (shiftByte b s).regs = s.regs := rfl
@[simp] theorem shiftByte_fReset (b : Byte) (s : State) : (shiftByte b s).fReset = s.fReset := rfl
@[simp] theorem shiftByte_fDrvErr (b : Byte) (s : State) : (shiftByte b s).fDrvErr = s.fDrvErr := rfl
@[simp] theorem shiftByte_sg (b : Byte) (s : State) : (shiftByte b s).sg = s.sg := rfl
@[simp] theorem shiftByte_stst (b : Byte) (s : State) : (shiftByte b s).stst = s.stst := rfl
@[simp] theorem shiftByte_ovr (b : Byte) (s : State) : (shiftByte b s).ovr = s.ovr := rfl
@[simp] theorem shiftByte_axis (b : Byte) (s : State) : (shiftByte b s).axis = s.axis := rfl
@[simp] theorem shiftByte_stepLvl (b : Byte) (s : State) : (shiftByte b s).stepLvl = s.stepLvl := rfl
@[simp] theorem shiftByte_dirLvl (b : Byte) (s : State) : (shiftByte b s).dirLvl = s.dirLvl := rfl
@[simp] theorem shiftByte_enLvl (b : Byte) (s : State) : (shiftByte b s).enLvl = s.enLvl := rfl
@[simp] theorem shiftByte_ssDeadline (b : Byte) (s : State) : (shiftByte b s).ssDeadline = s.ssDeadline := rfl
@[simp] theorem shiftByte_diag (b : Byte) (s : State) : (shiftByte b s).diag = s.diag := rfl
@[simp] theorem shiftByte_minOut (b : Byte) (s : State) : (shiftByte b s).minOut = s.minOut := rfl
@[simp] theorem shiftByte_posOut (b : Byte) (s : State) : (shiftByte b s).posOut = s.posOut := rfl
@[simp] theorem shiftByte_snap (b : Byte) (s : State) : (shiftByte b s).snap = s.snap := rfl
@[simp] theorem shiftByte_lastT (b : Byte) (s : State) : (shiftByte b s).lastT = s.lastT := rfl

/-! ### `setReg`: one register word -/

@[simp] theorem setReg_par (a : Addr) (w : Word) (s : State) : (setReg a w s).par = s.par := rfl
@[simp] theorem setReg_inbox (a : Addr) (w : Word) (s : State) : (setReg a w s).inbox = s.inbox := rfl
@[simp] theorem setReg_out (a : Addr) (w : Word) (s : State) : (setReg a w s).out = s.out := rfl
@[simp] theorem setReg_ret (a : Addr) (w : Word) (s : State) : (setReg a w s).ret = s.ret := rfl
@[simp] theorem setReg_csLvl (a : Addr) (w : Word) (s : State) : (setReg a w s).csLvl = s.csLvl := rfl
@[simp] theorem setReg_acc (a : Addr) (w : Word) (s : State) : (setReg a w s).acc = s.acc := rfl
@[simp] theorem setReg_nb (a : Addr) (w : Word) (s : State) : (setReg a w s).nb = s.nb := rfl
@[simp] theorem setReg_reply (a : Addr) (w : Word) (s : State) : (setReg a w s).reply = s.reply := rfl
@[simp] theorem setReg_shout (a : Addr) (w : Word) (s : State) : (setReg a w s).shout = s.shout := rfl
@[simp] theorem setReg_regs (a : Addr) (w : Word) (s : State) : (setReg a w s).regs = s.regs.set a.toNat w a.isLt := rfl
@[simp] theorem setReg_fReset (a : Addr) (w : Word) (s : State) : (setReg a w s).fReset = s.fReset := rfl
@[simp] theorem setReg_fDrvErr (a : Addr) (w : Word) (s : State) : (setReg a w s).fDrvErr = s.fDrvErr := rfl
@[simp] theorem setReg_sg (a : Addr) (w : Word) (s : State) : (setReg a w s).sg = s.sg := rfl
@[simp] theorem setReg_stst (a : Addr) (w : Word) (s : State) : (setReg a w s).stst = s.stst := rfl
@[simp] theorem setReg_ovr (a : Addr) (w : Word) (s : State) : (setReg a w s).ovr = s.ovr := rfl
@[simp] theorem setReg_axis (a : Addr) (w : Word) (s : State) : (setReg a w s).axis = s.axis := rfl
@[simp] theorem setReg_stepLvl (a : Addr) (w : Word) (s : State) : (setReg a w s).stepLvl = s.stepLvl := rfl
@[simp] theorem setReg_dirLvl (a : Addr) (w : Word) (s : State) : (setReg a w s).dirLvl = s.dirLvl := rfl
@[simp] theorem setReg_enLvl (a : Addr) (w : Word) (s : State) : (setReg a w s).enLvl = s.enLvl := rfl
@[simp] theorem setReg_ssDeadline (a : Addr) (w : Word) (s : State) : (setReg a w s).ssDeadline = s.ssDeadline := rfl
@[simp] theorem setReg_diag (a : Addr) (w : Word) (s : State) : (setReg a w s).diag = s.diag := rfl
@[simp] theorem setReg_minOut (a : Addr) (w : Word) (s : State) : (setReg a w s).minOut = s.minOut := rfl
@[simp] theorem setReg_posOut (a : Addr) (w : Word) (s : State) : (setReg a w s).posOut = s.posOut := rfl
@[simp] theorem setReg_snap (a : Addr) (w : Word) (s : State) : (setReg a w s).snap = s.snap := rfl
@[simp] theorem setReg_lastT (a : Addr) (w : Word) (s : State) : (setReg a w s).lastT = s.lastT := rfl

/-! ### `latchReply`: the reply latch -/

@[simp] theorem latchReply_par (st : Byte) (d : Word) (s : State) : (latchReply st d s).par = s.par := rfl
@[simp] theorem latchReply_inbox (st : Byte) (d : Word) (s : State) : (latchReply st d s).inbox = s.inbox := rfl
@[simp] theorem latchReply_out (st : Byte) (d : Word) (s : State) : (latchReply st d s).out = s.out := rfl
@[simp] theorem latchReply_ret (st : Byte) (d : Word) (s : State) : (latchReply st d s).ret = s.ret := rfl
@[simp] theorem latchReply_csLvl (st : Byte) (d : Word) (s : State) : (latchReply st d s).csLvl = s.csLvl := rfl
@[simp] theorem latchReply_acc (st : Byte) (d : Word) (s : State) : (latchReply st d s).acc = s.acc := rfl
@[simp] theorem latchReply_nb (st : Byte) (d : Word) (s : State) : (latchReply st d s).nb = s.nb := rfl
@[simp] theorem latchReply_reply (st : Byte) (d : Word) (s : State) : (latchReply st d s).reply = st ++ d := rfl
@[simp] theorem latchReply_shout (st : Byte) (d : Word) (s : State) : (latchReply st d s).shout = s.shout := rfl
@[simp] theorem latchReply_regs (st : Byte) (d : Word) (s : State) : (latchReply st d s).regs = s.regs := rfl
@[simp] theorem latchReply_fReset (st : Byte) (d : Word) (s : State) : (latchReply st d s).fReset = s.fReset := rfl
@[simp] theorem latchReply_fDrvErr (st : Byte) (d : Word) (s : State) : (latchReply st d s).fDrvErr = s.fDrvErr := rfl
@[simp] theorem latchReply_sg (st : Byte) (d : Word) (s : State) : (latchReply st d s).sg = s.sg := rfl
@[simp] theorem latchReply_stst (st : Byte) (d : Word) (s : State) : (latchReply st d s).stst = s.stst := rfl
@[simp] theorem latchReply_ovr (st : Byte) (d : Word) (s : State) : (latchReply st d s).ovr = s.ovr := rfl
@[simp] theorem latchReply_axis (st : Byte) (d : Word) (s : State) : (latchReply st d s).axis = s.axis := rfl
@[simp] theorem latchReply_stepLvl (st : Byte) (d : Word) (s : State) : (latchReply st d s).stepLvl = s.stepLvl := rfl
@[simp] theorem latchReply_dirLvl (st : Byte) (d : Word) (s : State) : (latchReply st d s).dirLvl = s.dirLvl := rfl
@[simp] theorem latchReply_enLvl (st : Byte) (d : Word) (s : State) : (latchReply st d s).enLvl = s.enLvl := rfl
@[simp] theorem latchReply_ssDeadline (st : Byte) (d : Word) (s : State) :
    (latchReply st d s).ssDeadline = s.ssDeadline :=
  rfl
@[simp] theorem latchReply_diag (st : Byte) (d : Word) (s : State) : (latchReply st d s).diag = s.diag := rfl
@[simp] theorem latchReply_minOut (st : Byte) (d : Word) (s : State) : (latchReply st d s).minOut = s.minOut := rfl
@[simp] theorem latchReply_posOut (st : Byte) (d : Word) (s : State) : (latchReply st d s).posOut = s.posOut := rfl
@[simp] theorem latchReply_snap (st : Byte) (d : Word) (s : State) : (latchReply st d s).snap = s.snap := rfl
@[simp] theorem latchReply_lastT (st : Byte) (d : Word) (s : State) : (latchReply st d s).lastT = s.lastT := rfl

/-! ### `publishCount`: POSITION and MIN -/

@[simp] theorem publishCount_par (n : BitVec 32) (s : State) : (publishCount n s).par = s.par := rfl
@[simp] theorem publishCount_inbox (n : BitVec 32) (s : State) : (publishCount n s).inbox = s.inbox := rfl
@[simp] theorem publishCount_out (n : BitVec 32) (s : State) :
    (publishCount n s).out = s.out ++ [.position n] ++ [.min (minLevel n)] :=
  rfl
@[simp] theorem publishCount_ret (n : BitVec 32) (s : State) : (publishCount n s).ret = s.ret := rfl
@[simp] theorem publishCount_csLvl (n : BitVec 32) (s : State) : (publishCount n s).csLvl = s.csLvl := rfl
@[simp] theorem publishCount_acc (n : BitVec 32) (s : State) : (publishCount n s).acc = s.acc := rfl
@[simp] theorem publishCount_nb (n : BitVec 32) (s : State) : (publishCount n s).nb = s.nb := rfl
@[simp] theorem publishCount_reply (n : BitVec 32) (s : State) : (publishCount n s).reply = s.reply := rfl
@[simp] theorem publishCount_shout (n : BitVec 32) (s : State) : (publishCount n s).shout = s.shout := rfl
@[simp] theorem publishCount_regs (n : BitVec 32) (s : State) : (publishCount n s).regs = s.regs := rfl
@[simp] theorem publishCount_fReset (n : BitVec 32) (s : State) : (publishCount n s).fReset = s.fReset := rfl
@[simp] theorem publishCount_fDrvErr (n : BitVec 32) (s : State) : (publishCount n s).fDrvErr = s.fDrvErr := rfl
@[simp] theorem publishCount_sg (n : BitVec 32) (s : State) : (publishCount n s).sg = s.sg := rfl
@[simp] theorem publishCount_stst (n : BitVec 32) (s : State) : (publishCount n s).stst = s.stst := rfl
@[simp] theorem publishCount_ovr (n : BitVec 32) (s : State) : (publishCount n s).ovr = s.ovr := rfl
@[simp] theorem publishCount_axis (n : BitVec 32) (s : State) : (publishCount n s).axis = s.axis := rfl
@[simp] theorem publishCount_stepLvl (n : BitVec 32) (s : State) : (publishCount n s).stepLvl = s.stepLvl := rfl
@[simp] theorem publishCount_dirLvl (n : BitVec 32) (s : State) : (publishCount n s).dirLvl = s.dirLvl := rfl
@[simp] theorem publishCount_enLvl (n : BitVec 32) (s : State) : (publishCount n s).enLvl = s.enLvl := rfl
@[simp] theorem publishCount_ssDeadline (n : BitVec 32) (s : State) :
    (publishCount n s).ssDeadline = s.ssDeadline :=
  rfl
@[simp] theorem publishCount_diag (n : BitVec 32) (s : State) : (publishCount n s).diag = s.diag := rfl
@[simp] theorem publishCount_minOut (n : BitVec 32) (s : State) : (publishCount n s).minOut = minLevel n := rfl
@[simp] theorem publishCount_posOut (n : BitVec 32) (s : State) : (publishCount n s).posOut = n := rfl
@[simp] theorem publishCount_snap (n : BitVec 32) (s : State) : (publishCount n s).snap = s.snap := rfl
@[simp] theorem publishCount_lastT (n : BitVec 32) (s : State) : (publishCount n s).lastT = s.lastT := rfl

/-! ### `armTimer`: the deadline -/

@[simp] theorem armTimer_par (t : Nat) (s : State) : (armTimer t s).par = s.par := rfl
@[simp] theorem armTimer_inbox (t : Nat) (s : State) : (armTimer t s).inbox = s.inbox := rfl
@[simp] theorem armTimer_out (t : Nat) (s : State) : (armTimer t s).out = s.out := rfl
@[simp] theorem armTimer_ret (t : Nat) (s : State) : (armTimer t s).ret = s.ret := rfl
@[simp] theorem armTimer_csLvl (t : Nat) (s : State) : (armTimer t s).csLvl = s.csLvl := rfl
@[simp] theorem armTimer_acc (t : Nat) (s : State) : (armTimer t s).acc = s.acc := rfl
@[simp] theorem armTimer_nb (t : Nat) (s : State) : (armTimer t s).nb = s.nb := rfl
@[simp] theorem armTimer_reply (t : Nat) (s : State) : (armTimer t s).reply = s.reply := rfl
@[simp] theorem armTimer_shout (t : Nat) (s : State) : (armTimer t s).shout = s.shout := rfl
@[simp] theorem armTimer_regs (t : Nat) (s : State) : (armTimer t s).regs = s.regs := rfl
@[simp] theorem armTimer_fReset (t : Nat) (s : State) : (armTimer t s).fReset = s.fReset := rfl
@[simp] theorem armTimer_fDrvErr (t : Nat) (s : State) : (armTimer t s).fDrvErr = s.fDrvErr := rfl
@[simp] theorem armTimer_sg (t : Nat) (s : State) : (armTimer t s).sg = s.sg := rfl
@[simp] theorem armTimer_stst (t : Nat) (s : State) : (armTimer t s).stst = s.stst := rfl
@[simp] theorem armTimer_ovr (t : Nat) (s : State) : (armTimer t s).ovr = s.ovr := rfl
@[simp] theorem armTimer_axis (t : Nat) (s : State) : (armTimer t s).axis = s.axis := rfl
@[simp] theorem armTimer_stepLvl (t : Nat) (s : State) : (armTimer t s).stepLvl = s.stepLvl := rfl
@[simp] theorem armTimer_dirLvl (t : Nat) (s : State) : (armTimer t s).dirLvl = s.dirLvl := rfl
@[simp] theorem armTimer_enLvl (t : Nat) (s : State) : (armTimer t s).enLvl = s.enLvl := rfl
@[simp] theorem armTimer_ssDeadline (t : Nat) (s : State) :
    (armTimer t s).ssDeadline = some (t + s.par.standstillWindow) :=
  rfl
@[simp] theorem armTimer_diag (t : Nat) (s : State) : (armTimer t s).diag = s.diag := rfl
@[simp] theorem armTimer_minOut (t : Nat) (s : State) : (armTimer t s).minOut = s.minOut := rfl
@[simp] theorem armTimer_posOut (t : Nat) (s : State) : (armTimer t s).posOut = s.posOut := rfl
@[simp] theorem armTimer_snap (t : Nat) (s : State) : (armTimer t s).snap = s.snap := rfl
@[simp] theorem armTimer_lastT (t : Nat) (s : State) : (armTimer t s).lastT = s.lastT := rfl

/-! ### `returns`: the returned status -/

@[simp] theorem returns_par (r : ActionStatus) (s : State) : (returns r s).par = s.par := rfl
@[simp] theorem returns_inbox (r : ActionStatus) (s : State) : (returns r s).inbox = s.inbox := rfl
@[simp] theorem returns_out (r : ActionStatus) (s : State) : (returns r s).out = s.out := rfl
@[simp] theorem returns_ret (r : ActionStatus) (s : State) : (returns r s).ret = some r := rfl
@[simp] theorem returns_csLvl (r : ActionStatus) (s : State) : (returns r s).csLvl = s.csLvl := rfl
@[simp] theorem returns_acc (r : ActionStatus) (s : State) : (returns r s).acc = s.acc := rfl
@[simp] theorem returns_nb (r : ActionStatus) (s : State) : (returns r s).nb = s.nb := rfl
@[simp] theorem returns_reply (r : ActionStatus) (s : State) : (returns r s).reply = s.reply := rfl
@[simp] theorem returns_shout (r : ActionStatus) (s : State) : (returns r s).shout = s.shout := rfl
@[simp] theorem returns_regs (r : ActionStatus) (s : State) : (returns r s).regs = s.regs := rfl
@[simp] theorem returns_fReset (r : ActionStatus) (s : State) : (returns r s).fReset = s.fReset := rfl
@[simp] theorem returns_fDrvErr (r : ActionStatus) (s : State) : (returns r s).fDrvErr = s.fDrvErr := rfl
@[simp] theorem returns_sg (r : ActionStatus) (s : State) : (returns r s).sg = s.sg := rfl
@[simp] theorem returns_stst (r : ActionStatus) (s : State) : (returns r s).stst = s.stst := rfl
@[simp] theorem returns_ovr (r : ActionStatus) (s : State) : (returns r s).ovr = s.ovr := rfl
@[simp] theorem returns_axis (r : ActionStatus) (s : State) : (returns r s).axis = s.axis := rfl
@[simp] theorem returns_stepLvl (r : ActionStatus) (s : State) : (returns r s).stepLvl = s.stepLvl := rfl
@[simp] theorem returns_dirLvl (r : ActionStatus) (s : State) : (returns r s).dirLvl = s.dirLvl := rfl
@[simp] theorem returns_enLvl (r : ActionStatus) (s : State) : (returns r s).enLvl = s.enLvl := rfl
@[simp] theorem returns_ssDeadline (r : ActionStatus) (s : State) : (returns r s).ssDeadline = s.ssDeadline := rfl
@[simp] theorem returns_diag (r : ActionStatus) (s : State) : (returns r s).diag = s.diag := rfl
@[simp] theorem returns_minOut (r : ActionStatus) (s : State) : (returns r s).minOut = s.minOut := rfl
@[simp] theorem returns_posOut (r : ActionStatus) (s : State) : (returns r s).posOut = s.posOut := rfl
@[simp] theorem returns_snap (r : ActionStatus) (s : State) : (returns r s).snap = s.snap := rfl
@[simp] theorem returns_lastT (r : ActionStatus) (s : State) : (returns r s).lastT = s.lastT := rfl

/-! ### `driveDiag`: DIAG's level and, on a change, `out` -/

@[simp] theorem driveDiag_par (l : Level) (s : State) : (driveDiag l s).par = s.par := rfl
@[simp] theorem driveDiag_inbox (l : Level) (s : State) : (driveDiag l s).inbox = s.inbox := rfl
@[simp] theorem driveDiag_out (l : Level) (s : State) : (driveDiag l s).out = s.out ++ diagChange s.diag l := rfl
@[simp] theorem driveDiag_ret (l : Level) (s : State) : (driveDiag l s).ret = s.ret := rfl
@[simp] theorem driveDiag_csLvl (l : Level) (s : State) : (driveDiag l s).csLvl = s.csLvl := rfl
@[simp] theorem driveDiag_acc (l : Level) (s : State) : (driveDiag l s).acc = s.acc := rfl
@[simp] theorem driveDiag_nb (l : Level) (s : State) : (driveDiag l s).nb = s.nb := rfl
@[simp] theorem driveDiag_reply (l : Level) (s : State) : (driveDiag l s).reply = s.reply := rfl
@[simp] theorem driveDiag_shout (l : Level) (s : State) : (driveDiag l s).shout = s.shout := rfl
@[simp] theorem driveDiag_regs (l : Level) (s : State) : (driveDiag l s).regs = s.regs := rfl
@[simp] theorem driveDiag_fReset (l : Level) (s : State) : (driveDiag l s).fReset = s.fReset := rfl
@[simp] theorem driveDiag_fDrvErr (l : Level) (s : State) : (driveDiag l s).fDrvErr = s.fDrvErr := rfl
@[simp] theorem driveDiag_sg (l : Level) (s : State) : (driveDiag l s).sg = s.sg := rfl
@[simp] theorem driveDiag_stst (l : Level) (s : State) : (driveDiag l s).stst = s.stst := rfl
@[simp] theorem driveDiag_ovr (l : Level) (s : State) : (driveDiag l s).ovr = s.ovr := rfl
@[simp] theorem driveDiag_axis (l : Level) (s : State) : (driveDiag l s).axis = s.axis := rfl
@[simp] theorem driveDiag_stepLvl (l : Level) (s : State) : (driveDiag l s).stepLvl = s.stepLvl := rfl
@[simp] theorem driveDiag_dirLvl (l : Level) (s : State) : (driveDiag l s).dirLvl = s.dirLvl := rfl
@[simp] theorem driveDiag_enLvl (l : Level) (s : State) : (driveDiag l s).enLvl = s.enLvl := rfl
@[simp] theorem driveDiag_ssDeadline (l : Level) (s : State) : (driveDiag l s).ssDeadline = s.ssDeadline := rfl
@[simp] theorem driveDiag_diag (l : Level) (s : State) : (driveDiag l s).diag = l := rfl
@[simp] theorem driveDiag_minOut (l : Level) (s : State) : (driveDiag l s).minOut = s.minOut := rfl
@[simp] theorem driveDiag_posOut (l : Level) (s : State) : (driveDiag l s).posOut = s.posOut := rfl
@[simp] theorem driveDiag_snap (l : Level) (s : State) : (driveDiag l s).snap = s.snap := rfl
@[simp] theorem driveDiag_lastT (l : Level) (s : State) : (driveDiag l s).lastT = s.lastT := rfl

/-- The DIAG levels of a change: the new level on a change, none otherwise. -/
theorem diagChange_cases (old new : Level) :
    (old = new ∧ diagChange old new = []) ∨ (old ≠ new ∧ diagChange old new = [.diag new]) := by
  by_cases h : old = new
  · exact .inl ⟨h, if_pos h⟩
  · exact .inr ⟨h, if_neg h⟩

@[simp] theorem diagChange_self (l : Level) : diagChange l l = [] := if_pos rfl

/-- `readSideEffect`: only the reset flag (41_register_file.md R134). -/
@[simp] theorem readSideEffect_fields (a : Addr) (s : State) :
    (readSideEffect a s).par = s.par ∧
    (readSideEffect a s).inbox = s.inbox ∧
    (readSideEffect a s).out = s.out ∧
    (readSideEffect a s).ret = s.ret ∧
    (readSideEffect a s).csLvl = s.csLvl ∧
    (readSideEffect a s).acc = s.acc ∧
    (readSideEffect a s).nb = s.nb ∧
    (readSideEffect a s).reply = s.reply ∧
    (readSideEffect a s).shout = s.shout ∧
    (readSideEffect a s).regs = s.regs ∧
    (readSideEffect a s).fReset = (if a = 0x01 ∧ s.par.gstatClearOnRead = true then false else s.fReset) ∧
    (readSideEffect a s).fDrvErr = s.fDrvErr ∧
    (readSideEffect a s).sg = s.sg ∧
    (readSideEffect a s).stst = s.stst ∧
    (readSideEffect a s).ovr = s.ovr ∧
    (readSideEffect a s).axis = s.axis ∧
    (readSideEffect a s).stepLvl = s.stepLvl ∧
    (readSideEffect a s).dirLvl = s.dirLvl ∧
    (readSideEffect a s).enLvl = s.enLvl ∧
    (readSideEffect a s).ssDeadline = s.ssDeadline ∧
    (readSideEffect a s).diag = s.diag ∧
    (readSideEffect a s).minOut = s.minOut ∧
    (readSideEffect a s).posOut = s.posOut ∧
    (readSideEffect a s).snap = s.snap ∧
    (readSideEffect a s).lastT = s.lastT := by
  unfold readSideEffect; split <;> simp_all

/-- `regWrite`: only the register file (41_register_file.md R136). -/
@[simp] theorem regWrite_fields (a : Addr) (d : Word) (s : State) :
    (regWrite a d s).par = s.par ∧
    (regWrite a d s).inbox = s.inbox ∧
    (regWrite a d s).out = s.out ∧
    (regWrite a d s).ret = s.ret ∧
    (regWrite a d s).csLvl = s.csLvl ∧
    (regWrite a d s).acc = s.acc ∧
    (regWrite a d s).nb = s.nb ∧
    (regWrite a d s).reply = s.reply ∧
    (regWrite a d s).shout = s.shout ∧
    (regWrite a d s).fReset = s.fReset ∧
    (regWrite a d s).fDrvErr = s.fDrvErr ∧
    (regWrite a d s).sg = s.sg ∧
    (regWrite a d s).stst = s.stst ∧
    (regWrite a d s).ovr = s.ovr ∧
    (regWrite a d s).axis = s.axis ∧
    (regWrite a d s).stepLvl = s.stepLvl ∧
    (regWrite a d s).dirLvl = s.dirLvl ∧
    (regWrite a d s).enLvl = s.enLvl ∧
    (regWrite a d s).ssDeadline = s.ssDeadline ∧
    (regWrite a d s).diag = s.diag ∧
    (regWrite a d s).minOut = s.minOut ∧
    (regWrite a d s).posOut = s.posOut ∧
    (regWrite a d s).snap = s.snap ∧
    (regWrite a d s).lastT = s.lastT := by
  unfold regWrite; split <;> simp

/-! ### `stallOnStep`: the stall indication of a counted step (42_step_integrator.md R170) -/

@[simp] theorem stallOnStep_par (c : Bool) (s : State) : (stallOnStep c s).par = s.par := rfl
@[simp] theorem stallOnStep_inbox (c : Bool) (s : State) : (stallOnStep c s).inbox = s.inbox := rfl
@[simp] theorem stallOnStep_out (c : Bool) (s : State) :
    (stallOnStep c s).out = s.out ++ diagChange s.diag (s.par.diagOnClamp && c) :=
  rfl
@[simp] theorem stallOnStep_ret (c : Bool) (s : State) : (stallOnStep c s).ret = s.ret := rfl
@[simp] theorem stallOnStep_csLvl (c : Bool) (s : State) : (stallOnStep c s).csLvl = s.csLvl := rfl
@[simp] theorem stallOnStep_acc (c : Bool) (s : State) : (stallOnStep c s).acc = s.acc := rfl
@[simp] theorem stallOnStep_nb (c : Bool) (s : State) : (stallOnStep c s).nb = s.nb := rfl
@[simp] theorem stallOnStep_reply (c : Bool) (s : State) : (stallOnStep c s).reply = s.reply := rfl
@[simp] theorem stallOnStep_shout (c : Bool) (s : State) : (stallOnStep c s).shout = s.shout := rfl
@[simp] theorem stallOnStep_regs (c : Bool) (s : State) : (stallOnStep c s).regs = s.regs := rfl
@[simp] theorem stallOnStep_fReset (c : Bool) (s : State) : (stallOnStep c s).fReset = s.fReset := rfl
@[simp] theorem stallOnStep_fDrvErr (c : Bool) (s : State) : (stallOnStep c s).fDrvErr = s.fDrvErr := rfl
@[simp] theorem stallOnStep_sg (c : Bool) (s : State) : (stallOnStep c s).sg = (s.par.diagOnClamp && c) := rfl
@[simp] theorem stallOnStep_stst (c : Bool) (s : State) : (stallOnStep c s).stst = s.stst := rfl
@[simp] theorem stallOnStep_ovr (c : Bool) (s : State) : (stallOnStep c s).ovr = s.ovr := rfl
@[simp] theorem stallOnStep_axis (c : Bool) (s : State) : (stallOnStep c s).axis = s.axis := rfl
@[simp] theorem stallOnStep_stepLvl (c : Bool) (s : State) : (stallOnStep c s).stepLvl = s.stepLvl := rfl
@[simp] theorem stallOnStep_dirLvl (c : Bool) (s : State) : (stallOnStep c s).dirLvl = s.dirLvl := rfl
@[simp] theorem stallOnStep_enLvl (c : Bool) (s : State) : (stallOnStep c s).enLvl = s.enLvl := rfl
@[simp] theorem stallOnStep_ssDeadline (c : Bool) (s : State) : (stallOnStep c s).ssDeadline = s.ssDeadline := rfl
@[simp] theorem stallOnStep_diag (c : Bool) (s : State) : (stallOnStep c s).diag = (s.par.diagOnClamp && c) := rfl
@[simp] theorem stallOnStep_minOut (c : Bool) (s : State) : (stallOnStep c s).minOut = s.minOut := rfl
@[simp] theorem stallOnStep_posOut (c : Bool) (s : State) : (stallOnStep c s).posOut = s.posOut := rfl
@[simp] theorem stallOnStep_snap (c : Bool) (s : State) : (stallOnStep c s).snap = s.snap := rfl
@[simp] theorem stallOnStep_lastT (c : Bool) (s : State) : (stallOnStep c s).lastT = s.lastT := rfl

/-! ### `latchDir`: the direction latch -/

@[simp] theorem latchDir_par (l : Level) (s : State) : (latchDir l s).par = s.par := rfl
@[simp] theorem latchDir_inbox (l : Level) (s : State) : (latchDir l s).inbox = s.inbox := rfl
@[simp] theorem latchDir_out (l : Level) (s : State) : (latchDir l s).out = s.out := rfl
@[simp] theorem latchDir_ret (l : Level) (s : State) : (latchDir l s).ret = s.ret := rfl
@[simp] theorem latchDir_csLvl (l : Level) (s : State) : (latchDir l s).csLvl = s.csLvl := rfl
@[simp] theorem latchDir_acc (l : Level) (s : State) : (latchDir l s).acc = s.acc := rfl
@[simp] theorem latchDir_nb (l : Level) (s : State) : (latchDir l s).nb = s.nb := rfl
@[simp] theorem latchDir_reply (l : Level) (s : State) : (latchDir l s).reply = s.reply := rfl
@[simp] theorem latchDir_shout (l : Level) (s : State) : (latchDir l s).shout = s.shout := rfl
@[simp] theorem latchDir_regs (l : Level) (s : State) : (latchDir l s).regs = s.regs := rfl
@[simp] theorem latchDir_fReset (l : Level) (s : State) : (latchDir l s).fReset = s.fReset := rfl
@[simp] theorem latchDir_fDrvErr (l : Level) (s : State) : (latchDir l s).fDrvErr = s.fDrvErr := rfl
@[simp] theorem latchDir_sg (l : Level) (s : State) : (latchDir l s).sg = s.sg := rfl
@[simp] theorem latchDir_stst (l : Level) (s : State) : (latchDir l s).stst = s.stst := rfl
@[simp] theorem latchDir_ovr (l : Level) (s : State) : (latchDir l s).ovr = s.ovr := rfl
@[simp] theorem latchDir_axis (l : Level) (s : State) : (latchDir l s).axis = s.axis := rfl
@[simp] theorem latchDir_stepLvl (l : Level) (s : State) : (latchDir l s).stepLvl = s.stepLvl := rfl
@[simp] theorem latchDir_dirLvl (l : Level) (s : State) : (latchDir l s).dirLvl = l := rfl
@[simp] theorem latchDir_enLvl (l : Level) (s : State) : (latchDir l s).enLvl = s.enLvl := rfl
@[simp] theorem latchDir_ssDeadline (l : Level) (s : State) : (latchDir l s).ssDeadline = s.ssDeadline := rfl
@[simp] theorem latchDir_diag (l : Level) (s : State) : (latchDir l s).diag = s.diag := rfl
@[simp] theorem latchDir_minOut (l : Level) (s : State) : (latchDir l s).minOut = s.minOut := rfl
@[simp] theorem latchDir_posOut (l : Level) (s : State) : (latchDir l s).posOut = s.posOut := rfl
@[simp] theorem latchDir_snap (l : Level) (s : State) : (latchDir l s).snap = s.snap := rfl
@[simp] theorem latchDir_lastT (l : Level) (s : State) : (latchDir l s).lastT = s.lastT := rfl

/-! ### `latchEn`: the enable level -/

@[simp] theorem latchEn_par (l : Level) (s : State) : (latchEn l s).par = s.par := rfl
@[simp] theorem latchEn_inbox (l : Level) (s : State) : (latchEn l s).inbox = s.inbox := rfl
@[simp] theorem latchEn_out (l : Level) (s : State) : (latchEn l s).out = s.out := rfl
@[simp] theorem latchEn_ret (l : Level) (s : State) : (latchEn l s).ret = s.ret := rfl
@[simp] theorem latchEn_csLvl (l : Level) (s : State) : (latchEn l s).csLvl = s.csLvl := rfl
@[simp] theorem latchEn_acc (l : Level) (s : State) : (latchEn l s).acc = s.acc := rfl
@[simp] theorem latchEn_nb (l : Level) (s : State) : (latchEn l s).nb = s.nb := rfl
@[simp] theorem latchEn_reply (l : Level) (s : State) : (latchEn l s).reply = s.reply := rfl
@[simp] theorem latchEn_shout (l : Level) (s : State) : (latchEn l s).shout = s.shout := rfl
@[simp] theorem latchEn_regs (l : Level) (s : State) : (latchEn l s).regs = s.regs := rfl
@[simp] theorem latchEn_fReset (l : Level) (s : State) : (latchEn l s).fReset = s.fReset := rfl
@[simp] theorem latchEn_fDrvErr (l : Level) (s : State) : (latchEn l s).fDrvErr = s.fDrvErr := rfl
@[simp] theorem latchEn_sg (l : Level) (s : State) : (latchEn l s).sg = s.sg := rfl
@[simp] theorem latchEn_stst (l : Level) (s : State) : (latchEn l s).stst = s.stst := rfl
@[simp] theorem latchEn_ovr (l : Level) (s : State) : (latchEn l s).ovr = s.ovr := rfl
@[simp] theorem latchEn_axis (l : Level) (s : State) : (latchEn l s).axis = s.axis := rfl
@[simp] theorem latchEn_stepLvl (l : Level) (s : State) : (latchEn l s).stepLvl = s.stepLvl := rfl
@[simp] theorem latchEn_dirLvl (l : Level) (s : State) : (latchEn l s).dirLvl = s.dirLvl := rfl
@[simp] theorem latchEn_enLvl (l : Level) (s : State) : (latchEn l s).enLvl = l := rfl
@[simp] theorem latchEn_ssDeadline (l : Level) (s : State) : (latchEn l s).ssDeadline = s.ssDeadline := rfl
@[simp] theorem latchEn_diag (l : Level) (s : State) : (latchEn l s).diag = s.diag := rfl
@[simp] theorem latchEn_minOut (l : Level) (s : State) : (latchEn l s).minOut = s.minOut := rfl
@[simp] theorem latchEn_posOut (l : Level) (s : State) : (latchEn l s).posOut = s.posOut := rfl
@[simp] theorem latchEn_snap (l : Level) (s : State) : (latchEn l s).snap = s.snap := rfl
@[simp] theorem latchEn_lastT (l : Level) (s : State) : (latchEn l s).lastT = s.lastT := rfl

/-! ### `countStep`: a counted step changes no framer field, register or chip flag, and not the input levels (42_step_integrator.md R167) -/

@[simp] theorem countStep_par (t : Nat) (ax : AxisState) (s : State) : (countStep t ax s).par = s.par := rfl
@[simp] theorem countStep_inbox (t : Nat) (ax : AxisState) (s : State) : (countStep t ax s).inbox = s.inbox := rfl
@[simp] theorem countStep_out (t : Nat) (ax : AxisState) (s : State) :
    (countStep t ax s).out = s.out ++ diagChange s.diag (s.par.diagOnClamp && wasClamped ax (exactCount s.par ax s.dirLvl)) ++
      [.position (boundedCount ax (exactCount s.par ax s.dirLvl))] ++ [.min (minLevel (boundedCount ax (exactCount s.par ax s.dirLvl)))] :=
  rfl
@[simp] theorem countStep_ret (t : Nat) (ax : AxisState) (s : State) : (countStep t ax s).ret = s.ret := rfl
@[simp] theorem countStep_csLvl (t : Nat) (ax : AxisState) (s : State) : (countStep t ax s).csLvl = s.csLvl := rfl
@[simp] theorem countStep_acc (t : Nat) (ax : AxisState) (s : State) : (countStep t ax s).acc = s.acc := rfl
@[simp] theorem countStep_nb (t : Nat) (ax : AxisState) (s : State) : (countStep t ax s).nb = s.nb := rfl
@[simp] theorem countStep_reply (t : Nat) (ax : AxisState) (s : State) : (countStep t ax s).reply = s.reply := rfl
@[simp] theorem countStep_shout (t : Nat) (ax : AxisState) (s : State) : (countStep t ax s).shout = s.shout := rfl
@[simp] theorem countStep_regs (t : Nat) (ax : AxisState) (s : State) : (countStep t ax s).regs = s.regs := rfl
@[simp] theorem countStep_fReset (t : Nat) (ax : AxisState) (s : State) : (countStep t ax s).fReset = s.fReset := rfl
@[simp] theorem countStep_fDrvErr (t : Nat) (ax : AxisState) (s : State) : (countStep t ax s).fDrvErr = s.fDrvErr := rfl
@[simp] theorem countStep_sg (t : Nat) (ax : AxisState) (s : State) :
    (countStep t ax s).sg = (s.par.diagOnClamp && wasClamped ax (exactCount s.par ax s.dirLvl)) :=
  rfl
@[simp] theorem countStep_stst (t : Nat) (ax : AxisState) (s : State) : (countStep t ax s).stst = false := rfl
@[simp] theorem countStep_ovr (t : Nat) (ax : AxisState) (s : State) : (countStep t ax s).ovr = false := rfl
@[simp] theorem countStep_axis (t : Nat) (ax : AxisState) (s : State) :
    (countStep t ax s).axis = some { ax with stepCount := boundedCount ax (exactCount s.par ax s.dirLvl) } :=
  rfl
@[simp] theorem countStep_stepLvl (t : Nat) (ax : AxisState) (s : State) : (countStep t ax s).stepLvl = s.stepLvl := rfl
@[simp] theorem countStep_dirLvl (t : Nat) (ax : AxisState) (s : State) : (countStep t ax s).dirLvl = s.dirLvl := rfl
@[simp] theorem countStep_enLvl (t : Nat) (ax : AxisState) (s : State) : (countStep t ax s).enLvl = s.enLvl := rfl
@[simp] theorem countStep_ssDeadline (t : Nat) (ax : AxisState) (s : State) :
    (countStep t ax s).ssDeadline = some (t + s.par.standstillWindow) :=
  rfl
@[simp] theorem countStep_diag (t : Nat) (ax : AxisState) (s : State) :
    (countStep t ax s).diag = (s.par.diagOnClamp && wasClamped ax (exactCount s.par ax s.dirLvl)) :=
  rfl
@[simp] theorem countStep_minOut (t : Nat) (ax : AxisState) (s : State) :
    (countStep t ax s).minOut = minLevel (boundedCount ax (exactCount s.par ax s.dirLvl)) :=
  rfl
@[simp] theorem countStep_posOut (t : Nat) (ax : AxisState) (s : State) :
    (countStep t ax s).posOut = boundedCount ax (exactCount s.par ax s.dirLvl) :=
  rfl
@[simp] theorem countStep_snap (t : Nat) (ax : AxisState) (s : State) : (countStep t ax s).snap = s.snap := rfl
@[simp] theorem countStep_lastT (t : Nat) (ax : AxisState) (s : State) : (countStep t ax s).lastT = s.lastT := rfl

/-! ### `closeTransaction`: the framer's own fields after a de-assertion (40_spi_framer.md R104) -/

@[simp] theorem closeTransaction_par (s : State) : (closeTransaction s).par = s.par := rfl
@[simp] theorem closeTransaction_inbox (s : State) : (closeTransaction s).inbox = s.inbox := rfl
@[simp] theorem closeTransaction_out (s : State) : (closeTransaction s).out = s.out := rfl
@[simp] theorem closeTransaction_ret (s : State) : (closeTransaction s).ret = s.ret := rfl
@[simp] theorem closeTransaction_csLvl (s : State) : (closeTransaction s).csLvl = !s.par.csAssertLevel := rfl
@[simp] theorem closeTransaction_acc (s : State) : (closeTransaction s).acc = 0 := rfl
@[simp] theorem closeTransaction_nb (s : State) : (closeTransaction s).nb = 0 := rfl
@[simp] theorem closeTransaction_reply (s : State) : (closeTransaction s).reply = s.reply := rfl
@[simp] theorem closeTransaction_shout (s : State) : (closeTransaction s).shout = 0 := rfl
@[simp] theorem closeTransaction_regs (s : State) : (closeTransaction s).regs = s.regs := rfl
@[simp] theorem closeTransaction_fReset (s : State) : (closeTransaction s).fReset = s.fReset := rfl
@[simp] theorem closeTransaction_fDrvErr (s : State) : (closeTransaction s).fDrvErr = s.fDrvErr := rfl
@[simp] theorem closeTransaction_sg (s : State) : (closeTransaction s).sg = s.sg := rfl
@[simp] theorem closeTransaction_stst (s : State) : (closeTransaction s).stst = s.stst := rfl
@[simp] theorem closeTransaction_ovr (s : State) : (closeTransaction s).ovr = s.ovr := rfl
@[simp] theorem closeTransaction_axis (s : State) : (closeTransaction s).axis = s.axis := rfl
@[simp] theorem closeTransaction_stepLvl (s : State) : (closeTransaction s).stepLvl = s.stepLvl := rfl
@[simp] theorem closeTransaction_dirLvl (s : State) : (closeTransaction s).dirLvl = s.dirLvl := rfl
@[simp] theorem closeTransaction_enLvl (s : State) : (closeTransaction s).enLvl = s.enLvl := rfl
@[simp] theorem closeTransaction_ssDeadline (s : State) : (closeTransaction s).ssDeadline = s.ssDeadline := rfl
@[simp] theorem closeTransaction_diag (s : State) : (closeTransaction s).diag = s.diag := rfl
@[simp] theorem closeTransaction_minOut (s : State) : (closeTransaction s).minOut = s.minOut := rfl
@[simp] theorem closeTransaction_posOut (s : State) : (closeTransaction s).posOut = s.posOut := rfl
@[simp] theorem closeTransaction_snap (s : State) : (closeTransaction s).snap = s.snap := rfl
@[simp] theorem closeTransaction_lastT (s : State) : (closeTransaction s).lastT = s.lastT := rfl

/-! ### `applyConfig`: CONFIG (43_actions_config.md R205) -/

@[simp] theorem applyConfig_par (c : AxisConfig) (s : State) : (applyConfig c s).par = s.par := rfl
@[simp] theorem applyConfig_inbox (c : AxisConfig) (s : State) : (applyConfig c s).inbox = s.inbox := rfl
@[simp] theorem applyConfig_out (c : AxisConfig) (s : State) :
    (applyConfig c s).out = s.out ++ [.position (initialAxis c).stepCount] ++ [.min (minLevel (initialAxis c).stepCount)] :=
  rfl
@[simp] theorem applyConfig_ret (c : AxisConfig) (s : State) : (applyConfig c s).ret = s.ret := rfl
@[simp] theorem applyConfig_csLvl (c : AxisConfig) (s : State) : (applyConfig c s).csLvl = s.csLvl := rfl
@[simp] theorem applyConfig_acc (c : AxisConfig) (s : State) : (applyConfig c s).acc = s.acc := rfl
@[simp] theorem applyConfig_nb (c : AxisConfig) (s : State) : (applyConfig c s).nb = s.nb := rfl
@[simp] theorem applyConfig_reply (c : AxisConfig) (s : State) : (applyConfig c s).reply = s.reply := rfl
@[simp] theorem applyConfig_shout (c : AxisConfig) (s : State) : (applyConfig c s).shout = s.shout := rfl
@[simp] theorem applyConfig_regs (c : AxisConfig) (s : State) : (applyConfig c s).regs = s.regs := rfl
@[simp] theorem applyConfig_fReset (c : AxisConfig) (s : State) : (applyConfig c s).fReset = s.fReset := rfl
@[simp] theorem applyConfig_fDrvErr (c : AxisConfig) (s : State) : (applyConfig c s).fDrvErr = s.fDrvErr := rfl
@[simp] theorem applyConfig_sg (c : AxisConfig) (s : State) : (applyConfig c s).sg = s.sg := rfl
@[simp] theorem applyConfig_stst (c : AxisConfig) (s : State) : (applyConfig c s).stst = s.stst := rfl
@[simp] theorem applyConfig_ovr (c : AxisConfig) (s : State) : (applyConfig c s).ovr = s.ovr := rfl
@[simp] theorem applyConfig_axis (c : AxisConfig) (s : State) : (applyConfig c s).axis = some (initialAxis c) := rfl
@[simp] theorem applyConfig_stepLvl (c : AxisConfig) (s : State) : (applyConfig c s).stepLvl = s.stepLvl := rfl
@[simp] theorem applyConfig_dirLvl (c : AxisConfig) (s : State) : (applyConfig c s).dirLvl = s.dirLvl := rfl
@[simp] theorem applyConfig_enLvl (c : AxisConfig) (s : State) : (applyConfig c s).enLvl = s.enLvl := rfl
@[simp] theorem applyConfig_ssDeadline (c : AxisConfig) (s : State) : (applyConfig c s).ssDeadline = none := rfl
@[simp] theorem applyConfig_diag (c : AxisConfig) (s : State) : (applyConfig c s).diag = s.diag := rfl
@[simp] theorem applyConfig_minOut (c : AxisConfig) (s : State) :
    (applyConfig c s).minOut = minLevel (initialAxis c).stepCount :=
  rfl
@[simp] theorem applyConfig_posOut (c : AxisConfig) (s : State) :
    (applyConfig c s).posOut = (initialAxis c).stepCount :=
  rfl
@[simp] theorem applyConfig_snap (c : AxisConfig) (s : State) : (applyConfig c s).snap = s.snap := rfl
@[simp] theorem applyConfig_lastT (c : AxisConfig) (s : State) : (applyConfig c s).lastT = s.lastT := rfl

/-! ### `standstill`: the standstill timer fires (R185, R186) -/

@[simp] theorem standstill_par (s : State) : (standstill s).par = s.par := rfl
@[simp] theorem standstill_inbox (s : State) : (standstill s).inbox = s.inbox := rfl
@[simp] theorem standstill_out (s : State) :
    (standstill s).out = s.out ++ diagChange s.diag (s.diag || (!s.ovr && stallModeOn s)) :=
  rfl
@[simp] theorem standstill_ret (s : State) : (standstill s).ret = s.ret := rfl
@[simp] theorem standstill_csLvl (s : State) : (standstill s).csLvl = s.csLvl := rfl
@[simp] theorem standstill_acc (s : State) : (standstill s).acc = s.acc := rfl
@[simp] theorem standstill_nb (s : State) : (standstill s).nb = s.nb := rfl
@[simp] theorem standstill_reply (s : State) : (standstill s).reply = s.reply := rfl
@[simp] theorem standstill_shout (s : State) : (standstill s).shout = s.shout := rfl
@[simp] theorem standstill_regs (s : State) : (standstill s).regs = s.regs := rfl
@[simp] theorem standstill_fReset (s : State) : (standstill s).fReset = s.fReset := rfl
@[simp] theorem standstill_fDrvErr (s : State) : (standstill s).fDrvErr = s.fDrvErr := rfl
@[simp] theorem standstill_sg (s : State) : (standstill s).sg = s.sg := rfl
@[simp] theorem standstill_stst (s : State) : (standstill s).stst = true := rfl
@[simp] theorem standstill_ovr (s : State) : (standstill s).ovr = s.ovr := rfl
@[simp] theorem standstill_axis (s : State) : (standstill s).axis = s.axis := rfl
@[simp] theorem standstill_stepLvl (s : State) : (standstill s).stepLvl = s.stepLvl := rfl
@[simp] theorem standstill_dirLvl (s : State) : (standstill s).dirLvl = s.dirLvl := rfl
@[simp] theorem standstill_enLvl (s : State) : (standstill s).enLvl = s.enLvl := rfl
@[simp] theorem standstill_ssDeadline (s : State) : (standstill s).ssDeadline = none := rfl
@[simp] theorem standstill_diag (s : State) : (standstill s).diag = (s.diag || (!s.ovr && stallModeOn s)) := rfl
@[simp] theorem standstill_minOut (s : State) : (standstill s).minOut = s.minOut := rfl
@[simp] theorem standstill_posOut (s : State) : (standstill s).posOut = s.posOut := rfl
@[simp] theorem standstill_snap (s : State) : (standstill s).snap = s.snap := rfl
@[simp] theorem standstill_lastT (s : State) : (standstill s).lastT = s.lastT := rfl

/-! ### `forceStall`: ToggleStall (43_actions_config.md R202) -/

@[simp] theorem forceStall_par (s : State) : (forceStall s).par = s.par := rfl
@[simp] theorem forceStall_inbox (s : State) : (forceStall s).inbox = s.inbox := rfl
@[simp] theorem forceStall_out (s : State) : (forceStall s).out = s.out := rfl
@[simp] theorem forceStall_ret (s : State) : (forceStall s).ret = s.ret := rfl
@[simp] theorem forceStall_csLvl (s : State) : (forceStall s).csLvl = s.csLvl := rfl
@[simp] theorem forceStall_acc (s : State) : (forceStall s).acc = s.acc := rfl
@[simp] theorem forceStall_nb (s : State) : (forceStall s).nb = s.nb := rfl
@[simp] theorem forceStall_reply (s : State) : (forceStall s).reply = s.reply := rfl
@[simp] theorem forceStall_shout (s : State) : (forceStall s).shout = s.shout := rfl
@[simp] theorem forceStall_regs (s : State) : (forceStall s).regs = s.regs := rfl
@[simp] theorem forceStall_fReset (s : State) : (forceStall s).fReset = s.fReset := rfl
@[simp] theorem forceStall_fDrvErr (s : State) : (forceStall s).fDrvErr = s.fDrvErr := rfl
@[simp] theorem forceStall_sg (s : State) : (forceStall s).sg = true := rfl
@[simp] theorem forceStall_stst (s : State) : (forceStall s).stst = s.stst := rfl
@[simp] theorem forceStall_ovr (s : State) : (forceStall s).ovr = true := rfl
@[simp] theorem forceStall_axis (s : State) : (forceStall s).axis = s.axis := rfl
@[simp] theorem forceStall_stepLvl (s : State) : (forceStall s).stepLvl = s.stepLvl := rfl
@[simp] theorem forceStall_dirLvl (s : State) : (forceStall s).dirLvl = s.dirLvl := rfl
@[simp] theorem forceStall_enLvl (s : State) : (forceStall s).enLvl = s.enLvl := rfl
@[simp] theorem forceStall_ssDeadline (s : State) : (forceStall s).ssDeadline = s.ssDeadline := rfl
@[simp] theorem forceStall_diag (s : State) : (forceStall s).diag = s.diag := rfl
@[simp] theorem forceStall_minOut (s : State) : (forceStall s).minOut = s.minOut := rfl
@[simp] theorem forceStall_posOut (s : State) : (forceStall s).posOut = s.posOut := rfl
@[simp] theorem forceStall_snap (s : State) : (forceStall s).snap = s.snap := rfl
@[simp] theorem forceStall_lastT (s : State) : (forceStall s).lastT = s.lastT := rfl

/-! ### `forceDiag`: SetDiag (R203) -/

@[simp] theorem forceDiag_par (s : State) : (forceDiag s).par = s.par := rfl
@[simp] theorem forceDiag_inbox (s : State) : (forceDiag s).inbox = s.inbox := rfl
@[simp] theorem forceDiag_out (s : State) : (forceDiag s).out = s.out ++ diagChange s.diag true := rfl
@[simp] theorem forceDiag_ret (s : State) : (forceDiag s).ret = s.ret := rfl
@[simp] theorem forceDiag_csLvl (s : State) : (forceDiag s).csLvl = s.csLvl := rfl
@[simp] theorem forceDiag_acc (s : State) : (forceDiag s).acc = s.acc := rfl
@[simp] theorem forceDiag_nb (s : State) : (forceDiag s).nb = s.nb := rfl
@[simp] theorem forceDiag_reply (s : State) : (forceDiag s).reply = s.reply := rfl
@[simp] theorem forceDiag_shout (s : State) : (forceDiag s).shout = s.shout := rfl
@[simp] theorem forceDiag_regs (s : State) : (forceDiag s).regs = s.regs := rfl
@[simp] theorem forceDiag_fReset (s : State) : (forceDiag s).fReset = s.fReset := rfl
@[simp] theorem forceDiag_fDrvErr (s : State) : (forceDiag s).fDrvErr = s.fDrvErr := rfl
@[simp] theorem forceDiag_sg (s : State) : (forceDiag s).sg = s.sg := rfl
@[simp] theorem forceDiag_stst (s : State) : (forceDiag s).stst = s.stst := rfl
@[simp] theorem forceDiag_ovr (s : State) : (forceDiag s).ovr = true := rfl
@[simp] theorem forceDiag_axis (s : State) : (forceDiag s).axis = s.axis := rfl
@[simp] theorem forceDiag_stepLvl (s : State) : (forceDiag s).stepLvl = s.stepLvl := rfl
@[simp] theorem forceDiag_dirLvl (s : State) : (forceDiag s).dirLvl = s.dirLvl := rfl
@[simp] theorem forceDiag_enLvl (s : State) : (forceDiag s).enLvl = s.enLvl := rfl
@[simp] theorem forceDiag_ssDeadline (s : State) : (forceDiag s).ssDeadline = s.ssDeadline := rfl
@[simp] theorem forceDiag_diag (s : State) : (forceDiag s).diag = true := rfl
@[simp] theorem forceDiag_minOut (s : State) : (forceDiag s).minOut = s.minOut := rfl
@[simp] theorem forceDiag_posOut (s : State) : (forceDiag s).posOut = s.posOut := rfl
@[simp] theorem forceDiag_snap (s : State) : (forceDiag s).snap = s.snap := rfl
@[simp] theorem forceDiag_lastT (s : State) : (forceDiag s).lastT = s.lastT := rfl

/-! ### `releaseDiag`: ResetDiag (R204) -/

@[simp] theorem releaseDiag_par (s : State) : (releaseDiag s).par = s.par := rfl
@[simp] theorem releaseDiag_inbox (s : State) : (releaseDiag s).inbox = s.inbox := rfl
@[simp] theorem releaseDiag_out (s : State) : (releaseDiag s).out = s.out ++ diagChange s.diag false := rfl
@[simp] theorem releaseDiag_ret (s : State) : (releaseDiag s).ret = s.ret := rfl
@[simp] theorem releaseDiag_csLvl (s : State) : (releaseDiag s).csLvl = s.csLvl := rfl
@[simp] theorem releaseDiag_acc (s : State) : (releaseDiag s).acc = s.acc := rfl
@[simp] theorem releaseDiag_nb (s : State) : (releaseDiag s).nb = s.nb := rfl
@[simp] theorem releaseDiag_reply (s : State) : (releaseDiag s).reply = s.reply := rfl
@[simp] theorem releaseDiag_shout (s : State) : (releaseDiag s).shout = s.shout := rfl
@[simp] theorem releaseDiag_regs (s : State) : (releaseDiag s).regs = s.regs := rfl
@[simp] theorem releaseDiag_fReset (s : State) : (releaseDiag s).fReset = s.fReset := rfl
@[simp] theorem releaseDiag_fDrvErr (s : State) : (releaseDiag s).fDrvErr = s.fDrvErr := rfl
@[simp] theorem releaseDiag_sg (s : State) : (releaseDiag s).sg = false := rfl
@[simp] theorem releaseDiag_stst (s : State) : (releaseDiag s).stst = false := rfl
@[simp] theorem releaseDiag_ovr (s : State) : (releaseDiag s).ovr = true := rfl
@[simp] theorem releaseDiag_axis (s : State) : (releaseDiag s).axis = s.axis := rfl
@[simp] theorem releaseDiag_stepLvl (s : State) : (releaseDiag s).stepLvl = s.stepLvl := rfl
@[simp] theorem releaseDiag_dirLvl (s : State) : (releaseDiag s).dirLvl = s.dirLvl := rfl
@[simp] theorem releaseDiag_enLvl (s : State) : (releaseDiag s).enLvl = s.enLvl := rfl
@[simp] theorem releaseDiag_ssDeadline (s : State) : (releaseDiag s).ssDeadline = s.ssDeadline := rfl
@[simp] theorem releaseDiag_diag (s : State) : (releaseDiag s).diag = false := rfl
@[simp] theorem releaseDiag_minOut (s : State) : (releaseDiag s).minOut = s.minOut := rfl
@[simp] theorem releaseDiag_posOut (s : State) : (releaseDiag s).posOut = s.posOut := rfl
@[simp] theorem releaseDiag_snap (s : State) : (releaseDiag s).snap = s.snap := rfl
@[simp] theorem releaseDiag_lastT (s : State) : (releaseDiag s).lastT = s.lastT := rfl

/-- A level on STEP changes only the step level and what a counted step changes (42_step_integrator.md R160, R180). -/
@[simp] theorem stepArrives_fields (l : Level) (t : Nat) (ax : AxisState) (s : State) :
    (stepArrives l t ax s).par = s.par ∧
    (stepArrives l t ax s).inbox = s.inbox ∧
    (stepArrives l t ax s).ret = s.ret ∧
    (stepArrives l t ax s).csLvl = s.csLvl ∧
    (stepArrives l t ax s).acc = s.acc ∧
    (stepArrives l t ax s).nb = s.nb ∧
    (stepArrives l t ax s).reply = s.reply ∧
    (stepArrives l t ax s).shout = s.shout ∧
    (stepArrives l t ax s).regs = s.regs ∧
    (stepArrives l t ax s).fReset = s.fReset ∧
    (stepArrives l t ax s).fDrvErr = s.fDrvErr ∧
    (stepArrives l t ax s).stepLvl = l ∧
    (stepArrives l t ax s).dirLvl = s.dirLvl ∧
    (stepArrives l t ax s).enLvl = s.enLvl ∧
    (stepArrives l t ax s).snap = s.snap ∧
    (stepArrives l t ax s).lastT = s.lastT := by
  unfold stepArrives; split <;> simp [countStep]

/-! ### `resetBlock`: every field of the block (70_reset_and_hazards.md R250) -/

@[simp] theorem resetBlock_par (t : Nat) (s : State) : (resetBlock t s).par = s.par := rfl
@[simp] theorem resetBlock_inbox (t : Nat) (s : State) : (resetBlock t s).inbox = s.inbox := rfl
@[simp] theorem resetBlock_out (t : Nat) (s : State) : (resetBlock t s).out = s.out := rfl
@[simp] theorem resetBlock_ret (t : Nat) (s : State) : (resetBlock t s).ret = s.ret := rfl
@[simp] theorem resetBlock_csLvl (t : Nat) (s : State) : (resetBlock t s).csLvl = !s.par.csAssertLevel := rfl
@[simp] theorem resetBlock_acc (t : Nat) (s : State) : (resetBlock t s).acc = 0 := rfl
@[simp] theorem resetBlock_nb (t : Nat) (s : State) : (resetBlock t s).nb = 0 := rfl
@[simp] theorem resetBlock_reply (t : Nat) (s : State) : (resetBlock t s).reply = 0 := rfl
@[simp] theorem resetBlock_shout (t : Nat) (s : State) : (resetBlock t s).shout = 0 := rfl
@[simp] theorem resetBlock_regs (t : Nat) (s : State) : (resetBlock t s).regs = resetRegs s.par := rfl
@[simp] theorem resetBlock_fReset (t : Nat) (s : State) : (resetBlock t s).fReset = true := rfl
@[simp] theorem resetBlock_fDrvErr (t : Nat) (s : State) : (resetBlock t s).fDrvErr = false := rfl
@[simp] theorem resetBlock_sg (t : Nat) (s : State) : (resetBlock t s).sg = false := rfl
@[simp] theorem resetBlock_stst (t : Nat) (s : State) : (resetBlock t s).stst = false := rfl
@[simp] theorem resetBlock_ovr (t : Nat) (s : State) : (resetBlock t s).ovr = false := rfl
@[simp] theorem resetBlock_axis (t : Nat) (s : State) : (resetBlock t s).axis = none := rfl
@[simp] theorem resetBlock_stepLvl (t : Nat) (s : State) : (resetBlock t s).stepLvl = false := rfl
@[simp] theorem resetBlock_dirLvl (t : Nat) (s : State) : (resetBlock t s).dirLvl = false := rfl
@[simp] theorem resetBlock_enLvl (t : Nat) (s : State) : (resetBlock t s).enLvl = false := rfl
@[simp] theorem resetBlock_ssDeadline (t : Nat) (s : State) : (resetBlock t s).ssDeadline = none := rfl
@[simp] theorem resetBlock_diag (t : Nat) (s : State) : (resetBlock t s).diag = false := rfl
@[simp] theorem resetBlock_minOut (t : Nat) (s : State) : (resetBlock t s).minOut = false := rfl
@[simp] theorem resetBlock_posOut (t : Nat) (s : State) : (resetBlock t s).posOut = 0 := rfl
@[simp] theorem resetBlock_snap (t : Nat) (s : State) :
    (resetBlock t s).snap = { position := 0, stall := false, enabled := false == s.par.enActiveLevel, axis := s.par.axisId } :=
  rfl
@[simp] theorem resetBlock_lastT (t : Nat) (s : State) : (resetBlock t s).lastT = t := rfl

end Sys2Proof.Machine
end

