-- ==== Sys2Proof/Laws/Ops.lean ====
section
/-! SUPPORT. What the shared operations of an event can do: how it arrives, is handled or refused, and finishes. -/

namespace Sys2Proof.Machine
open Sys2Proof

/-- A configured block that an event reaches in order has an axis. -/
theorem ready_axis {s : State} {t : Nat} (h : Ready s t) : ∃ ax, s.axis = some ax ∧ s.lastT ≤ t :=
  ⟨_, (Option.some_get h.1).symm, h.2⟩

theorem configured_of_axis {s : State} {ax : AxisState} (h : s.axis = some ax) : s.configured = true := by
  simp [State.configured, h]

theorem axis_none_of_not_configured {s : State} (h : s.configured = false) : s.axis = none := by
  simpa [State.configured] using h

/-- An event in order is handled by its body. -/
theorem arrive_of_le {t : Nat} {s : State} (h : s.lastT ≤ t) (body : State → Result) :
    arrive t s body = body (clearOut s) := if_neg (Nat.not_lt.mpr h)

/-- An event whose time stamp goes back is refused (60_exceptions.md R238). -/
theorem arrive_of_lt {t : Nat} {s : State} (h : t < s.lastT) (body : State → Result) :
    arrive t s body = .refused .timeBackwards := if_pos h

/-- An event that is handled came in order. -/
theorem arrive_next {t : Nat} {s s' : State} {body : State → Result} (h : arrive t s body = .next s') :
    s.lastT ≤ t ∧ body (clearOut s) = .next s' := by
  unfold arrive at h
  split at h
  · cases h
  · exact ⟨Nat.not_lt.mp ‹_›, h⟩

theorem arriveConfigured_of_ready {t : Nat} {s : State} {ax : AxisState} (ha : s.axis = some ax) (h : s.lastT ≤ t)
    (body : AxisState → State → Result) : arriveConfigured t s body = body ax (clearOut s) := by
  simp [arriveConfigured, arrive_of_le h, ha]

/-- An event other than RESET and CONFIG is refused while not configured (43_actions_config.md R207). -/
theorem arriveConfigured_of_unconfigured {t : Nat} {s : State} (ha : s.axis = none) (h : s.lastT ≤ t)
    (body : AxisState → State → Result) : arriveConfigured t s body = .refused .notConfigured := by
  simp [arriveConfigured, arrive_of_le h, ha]

theorem arriveConfigured_of_lt {t : Nat} {s : State} (h : t < s.lastT) (body : AxisState → State → Result) :
    arriveConfigured t s body = .refused .timeBackwards := arrive_of_lt h _

/-- An event that is handled came in order to a configured block. -/
theorem arriveConfigured_next {t : Nat} {s s' : State} {body : AxisState → State → Result}
    (h : arriveConfigured t s body = .next s') :
    ∃ ax, s.axis = some ax ∧ s.lastT ≤ t ∧ body ax (clearOut s) = .next s' := by
  obtain ⟨hle, h⟩ := arrive_next h
  simp only [clearOut_axis] at h
  split at h
  · exact ⟨_, ‹_›, hle, h⟩
  · cases h

/-- A configured block handles an event in order by its state change and finishes it. -/
theorem handle_of_ready {t : Nat} {s : State} {ax : AxisState} (ha : s.axis = some ax) (h : s.lastT ≤ t)
    (f : AxisState → State → State) : handle t s f = .next (finish t (f ax (clearOut s))) :=
  arriveConfigured_of_ready ha h _

/-- Everything a handled event can have done. -/
theorem handle_next {t : Nat} {s s' : State} {f : AxisState → State → State} (h : handle t s f = .next s') :
    ∃ ax, s.axis = some ax ∧ s.lastT ≤ t ∧ s' = finish t (f ax (clearOut s)) := by
  obtain ⟨ax, ha, hle, h⟩ := arriveConfigured_next h
  exact ⟨ax, ha, hle, (Host.Outcome.next.inj h).symm⟩

/-- Once finished, an event has recorded its time stamp and the snapshot of its own state. -/
theorem recorded_finish (t : Nat) (s : State) : Recorded t (finish t s) := ⟨rfl, rfl⟩

/-- What each instruction can have done when it answers a next state: one case per row of opcode_table.json. -/
inductive Ran (s : State) : Instr → State → Prop where
  | read (a : Addr) (x : Word) : Ran s (.read a x) (readFrame a s)
  | write (a : Addr) (d : Word) : Ran s (.write a d) (writeFrame a d s)
  | csel (v : Int) (t : Nat) (ax : AxisState) (ha : s.axis = some ax) (hle : s.lastT ≤ t) :
      Ran s (.csel v t) (finish t (chipSelect (lvl v) (clearOut s)))
  | byteIn (v : Int) (t : Nat) (ax : AxisState) (ha : s.axis = some ax) (hle : s.lastT ≤ t) :
      Ran s (.byteIn v t) (finish t (byteArrives (trunc8 v) (clearOut s)))
  | step (v : Int) (t : Nat) (ax : AxisState) (ha : s.axis = some ax) (hle : s.lastT ≤ t) :
      Ran s (.step v t) (finish t (stepArrives (lvl v) t ax (clearOut s)))
  | dir (v : Int) (t : Nat) (ax : AxisState) (ha : s.axis = some ax) (hle : s.lastT ≤ t) :
      Ran s (.dir v t) (finish t (latchDir (lvl v) (clearOut s)))
  | en (v : Int) (t : Nat) (ax : AxisState) (ha : s.axis = some ax) (hle : s.lastT ≤ t) :
      Ran s (.en v t) (finish t (latchEn (lvl v) (clearOut s)))
  | timeout (t : Nat) (ax : AxisState) (ha : s.axis = some ax) (hle : s.lastT ≤ t) (hd : s.ssDeadline = some t) :
      Ran s (.timeout t) (finish t (standstill (clearOut s)))
  | toggleStall (g : List String) (t : Nat) (ax : AxisState) (ha : s.axis = some ax) (hle : s.lastT ≤ t) :
      Ran s (.toggleStall g t) (finish t (returns .finished (forceStall (clearOut s))))
  | setDiag (g : List String) (t : Nat) (ax : AxisState) (ha : s.axis = some ax) (hle : s.lastT ≤ t) :
      Ran s (.setDiag g t) (finish t (returns .finished (forceDiag (clearOut s))))
  | resetDiag (g : List String) (t : Nat) (ax : AxisState) (ha : s.axis = some ax) (hle : s.lastT ≤ t) :
      Ran s (.resetDiag g t) (finish t (returns .finished (releaseDiag (clearOut s))))
  | actionInvalid (id : Int) (g : List String) (t : Nat) (ax : AxisState) (ha : s.axis = some ax) (hle : s.lastT ≤ t) :
      Ran s (.actionInvalid id g t) (finish t (returns .error (clearOut s)))
  | config (c : AxisConfig) (t : Nat) (ha : s.axis = none) (hle : s.lastT ≤ t) (hv : configValid c = true) :
      Ran s (.config c t) (finish t (applyConfig c (clearOut s)))
  | reset (t : Nat) (hle : s.lastT ≤ t) : Ran s (.reset t) (resetBlock t (clearOut s))

/-- An event that `handle` handles: the inversion in the form `Ran` is proved from. -/
theorem handle_ran {i : Instr} {t : Nat} {s s' : State} {f : AxisState → State → State}
    (hr : ∀ ax, s.axis = some ax → s.lastT ≤ t → Ran s i (finish t (f ax (clearOut s))))
    (h : handle t s f = .next s') : Ran s i s' := by
  obtain ⟨ax, ha, hle, rfl⟩ := handle_next h
  exact hr ax ha hle

/-- If an instruction answers a next state, it did so by its one case of `Ran`. -/
theorem exec_ran {i : Instr} {s s' : State} (h : exec i s = .next s') : Ran s i s' := by
  cases i with
  | read a x => cases h; exact .read a x
  | write a d => cases h; exact .write a d
  | csel v t => exact handle_ran (.csel v t) h
  | byteIn v t => exact handle_ran (.byteIn v t) h
  | step v t => exact handle_ran (.step v t) h
  | dir v t => exact handle_ran (.dir v t) h
  | en v t => exact handle_ran (.en v t) h
  | timeout t =>
    simp only [exec, execTimeout] at h
    obtain ⟨ax, ha, hle, h⟩ := arriveConfigured_next h
    split at h
    · cases h; exact .timeout t ax ha hle ‹_›
    · cases h
  | toggleStall g t => simp only [exec, execToggleStall] at h; exact handle_ran (.toggleStall g t) h
  | setDiag g t => simp only [exec, execSetDiag] at h; exact handle_ran (.setDiag g t) h
  | resetDiag g t => simp only [exec, execResetDiag] at h; exact handle_ran (.resetDiag g t) h
  | actionInvalid id g t => exact handle_ran (.actionInvalid id g t) h
  | config c t =>
    simp only [exec, execConfig] at h
    obtain ⟨hle, h⟩ := arrive_next h
    split at h
    · cases h
    · split at h
      · cases h; exact .config c t ‹_› hle ‹_›
      · cases h
  | reset t =>
    simp only [exec, execReset] at h
    obtain ⟨hle, h⟩ := arrive_next h
    cases h; exact .reset t hle

/-- Each case of `Ran` is what the instruction answers. -/
theorem ran_exec {i : Instr} {s s' : State} (h : Ran s i s') : exec i s = .next s' := by
  cases h with
  | read a x => rfl
  | write a d => rfl
  | csel v t ax ha hle => exact handle_of_ready ha hle _
  | byteIn v t ax ha hle => exact handle_of_ready ha hle _
  | step v t ax ha hle => exact handle_of_ready ha hle _
  | dir v t ax ha hle => exact handle_of_ready ha hle _
  | en v t ax ha hle => exact handle_of_ready ha hle _
  | timeout t ax ha hle hd => simp [exec, execTimeout, arriveConfigured_of_ready ha hle, hd]
  | toggleStall g t ax ha hle => simp only [exec, execToggleStall]; exact handle_of_ready ha hle _
  | setDiag g t ax ha hle => simp only [exec, execSetDiag]; exact handle_of_ready ha hle _
  | resetDiag g t ax ha hle => simp only [exec, execResetDiag]; exact handle_of_ready ha hle _
  | actionInvalid id g t ax ha hle => exact handle_of_ready ha hle _
  | config c t ha hle hv => simp [exec, execConfig, arrive_of_le hle, ha, hv]
  | reset t hle => simp only [exec, execReset]; exact arrive_of_le hle _

/-- The next states of an instruction are exactly those of `Ran`. -/
theorem exec_next_iff {i : Instr} {s s' : State} : exec i s = .next s' ↔ Ran s i s' := ⟨exec_ran, ran_exec⟩

/-- If a step answers a next state, it ran the oldest delivered event, or nothing was delivered. -/
theorem step_next {s s' : State} (h : step s = .next s') :
    (s.inbox = [] ∧ s' = clearOut s) ∨
    ∃ e rest, s.inbox = e :: rest ∧ Ran { s with inbox := rest } (decodeEvent s.par.actionId e) s' := by
  unfold step takeEvent at h
  cases hi : s.inbox with
  | nil => rw [hi] at h; cases h; exact .inl ⟨rfl, rfl⟩
  | cons e rest => rw [hi] at h; exact .inr ⟨e, rest, rfl, exec_ran h⟩

end Sys2Proof.Machine
end

