-- ==== Sys2Proof/Laws/RegisterFile.lean ====
section
/-! SUPPORT. The register file: read after write, the words after reset, what each access reads and changes. -/

namespace Sys2Proof.Machine
open Sys2Proof

/-- The row found for an address is a row of the map with that address. -/
theorem findRow_some {rows : List RegRow} {a : Addr} {r : RegRow} (h : findRow rows a = some r) :
    r ∈ rows ∧ r.addr = a :=
  ⟨List.mem_of_find?_eq_some h, by simpa using List.find?_some h⟩

/-- No row is found for an address that no row has: it is UNIMPL (10_state.md R31). -/
theorem findRow_none {rows : List RegRow} {a : Addr} (h : ∀ r ∈ rows, r.addr ≠ a) : findRow rows a = none :=
  List.find?_eq_none.mpr fun r hr he => h r hr (by simpa using he)

/-- The word a table of 128 words built from a function holds at an address. -/
theorem resetRegs_get (p : Params) (a : Addr) : (resetRegs p)[a.toNat]'a.isLt = resetWord p a := by
  simp [resetRegs]

/-- A register file as reset leaves it meets the register file's invariant (41_register_file.md R137). -/
theorem regFileInv_resetRegs {s : State} (h : s.regs = resetRegs s.par) : RegFileInv s := by
  intro a
  have : s.reg a = resetWord s.par a := by rw [State.reg]; simp [h, resetRegs_get]
  rw [this, resetWord]
  cases regClass s.par a <;> simp

/-- A word read after a write: the word written at its own address, the old one elsewhere. -/
theorem reg_setReg (a b : Addr) (w : Word) (s : State) : (setReg a w s).reg b = if b = a then w else s.reg b := by
  simp only [State.reg, setReg, Vector.getElem_set]
  by_cases h : b = a
  · subst h; simp
  · rw [if_neg h, if_neg (fun e => h (BitVec.eq_of_toNat_eq e.symm))]

/-- States with the same register file hold the same words. -/
theorem reg_congr {s s' : State} (h : s'.regs = s.regs) (a : Addr) : s'.reg a = s.reg a := by
  simp [State.reg, h]

/-- A write changes no other address (41_register_file.md R136). -/
theorem regWrite_other (a b : Addr) (d : Word) (s : State) (h : b ≠ a) : (regWrite a d s).reg b = s.reg b := by
  unfold regWrite
  split <;> simp [reg_setReg, h]

/-- A write to an RW address merges under the mask (R136). -/
theorem regWrite_rw (a : Addr) (d : Word) (s : State) (h : regClass s.par a = .rw) :
    (regWrite a d s).reg a = mergeWord (s.reg a) d (wmask s.par a) := by
  simp [regWrite, h, reg_setReg]

/-- A write to an address of another class changes nothing (R136). -/
theorem regWrite_of_not_rw (a : Addr) (d : Word) (s : State) (h : regClass s.par a ≠ .rw) : regWrite a d s = s := by
  unfold regWrite
  split <;> simp_all

/-- A merged word, bit by bit. -/
theorem getLsbD_mergeWord (old d mask : Word) (i : Nat) (hi : i < 32) :
    (mergeWord old d mask).getLsbD i = if mask.getLsbD i then d.getLsbD i else old.getLsbD i := by
  simp only [mergeWord, BitVec.getLsbD_or, BitVec.getLsbD_and, BitVec.getLsbD_not, hi, decide_true, Bool.true_and]
  cases mask.getLsbD i <;> simp

/-- The part of a merged word outside the mask is the old one's. -/
theorem mergeWord_outside (old d mask : Word) : mergeWord old d mask &&& ~~~mask = old &&& ~~~mask := by
  apply BitVec.eq_of_getLsbD_eq
  intro i hi
  simp only [BitVec.getLsbD_and, BitVec.getLsbD_not, getLsbD_mergeWord _ _ _ i hi]
  cases mask.getLsbD i <;> simp

/-- The data half of a latched reply. -/
@[simp] theorem latched_data (st : Byte) (d : Word) : @BitVec.extractLsb' 40 0 32 (st ++ d) = d := by
  apply BitVec.eq_of_getLsbD_eq
  intro i hi
  simp only [BitVec.getLsbD_extractLsb', BitVec.getLsbD_append]
  simp [hi]

/-- The status half of a latched reply. -/
@[simp] theorem latched_status (st : Byte) (d : Word) : @BitVec.extractLsb' 40 32 8 (st ++ d) = st := by
  apply BitVec.eq_of_getLsbD_eq
  intro i hi
  simp only [BitVec.getLsbD_extractLsb', BitVec.getLsbD_append]
  simp [hi]

/-- The status byte of a state, in the reply that latches it (10_state.md R29). -/
theorem statusShows_latch (s : State) (d : Word) : StatusShows (statusByte s ++ d) s := by
  refine ⟨?_, ?_, ?_, ?_, ?_⟩
  · simp only [statusByte, BitVec.getLsbD_append]; simp
  · simp only [statusByte, BitVec.getLsbD_append]; simp
  · simp only [statusByte, BitVec.getLsbD_append]; simp
  · simp only [statusByte, BitVec.getLsbD_append]; simp
  · apply BitVec.eq_of_getLsbD_eq
    intro i hi
    have : i = 0 ∨ i = 1 ∨ i = 2 ∨ i = 3 := by omega
    rcases this with rfl | rfl | rfl | rfl <;>
      simp only [statusByte, BitVec.getLsbD_extractLsb', BitVec.getLsbD_append] <;> simp

/-- READ changes the reply latch and, for GSTAT, the reset flag (40_spi_framer.md R111). -/
@[simp] theorem readFrame_fields (a : Addr) (s : State) :
    (readFrame a s).par = s.par ∧ (readFrame a s).inbox = s.inbox ∧ (readFrame a s).out = s.out ∧
    (readFrame a s).ret = s.ret ∧ (readFrame a s).csLvl = s.csLvl ∧ (readFrame a s).acc = s.acc ∧
    (readFrame a s).nb = s.nb ∧ (readFrame a s).reply = statusByte s ++ regRead s a ∧
    (readFrame a s).shout = s.shout ∧ (readFrame a s).regs = s.regs ∧
    (readFrame a s).fReset = (if a = 0x01 ∧ s.par.gstatClearOnRead = true then false else s.fReset) ∧
    (readFrame a s).fDrvErr = s.fDrvErr ∧ (readFrame a s).sg = s.sg ∧ (readFrame a s).stst = s.stst ∧
    (readFrame a s).ovr = s.ovr ∧ (readFrame a s).axis = s.axis ∧ (readFrame a s).stepLvl = s.stepLvl ∧
    (readFrame a s).dirLvl = s.dirLvl ∧ (readFrame a s).enLvl = s.enLvl ∧
    (readFrame a s).ssDeadline = s.ssDeadline ∧ (readFrame a s).diag = s.diag ∧ (readFrame a s).minOut = s.minOut ∧
    (readFrame a s).posOut = s.posOut ∧ (readFrame a s).snap = s.snap ∧ (readFrame a s).lastT = s.lastT := by
  simp only [readFrame, readSideEffect_fields]
  and_intros <;> rfl

/-- WRITE changes the reply latch and the register file (R110). -/
@[simp] theorem writeFrame_fields (a : Addr) (d : Word) (s : State) :
    (writeFrame a d s).par = s.par ∧ (writeFrame a d s).inbox = s.inbox ∧ (writeFrame a d s).out = s.out ∧
    (writeFrame a d s).ret = s.ret ∧ (writeFrame a d s).csLvl = s.csLvl ∧ (writeFrame a d s).acc = s.acc ∧
    (writeFrame a d s).nb = s.nb ∧ (writeFrame a d s).reply = statusByte s ++ s.replyData ∧
    (writeFrame a d s).shout = s.shout ∧ (writeFrame a d s).regs = (regWrite a d s).regs ∧
    (writeFrame a d s).fReset = s.fReset ∧ (writeFrame a d s).fDrvErr = s.fDrvErr ∧
    (writeFrame a d s).sg = s.sg ∧ (writeFrame a d s).stst = s.stst ∧ (writeFrame a d s).ovr = s.ovr ∧
    (writeFrame a d s).axis = s.axis ∧ (writeFrame a d s).stepLvl = s.stepLvl ∧
    (writeFrame a d s).dirLvl = s.dirLvl ∧ (writeFrame a d s).enLvl = s.enLvl ∧
    (writeFrame a d s).ssDeadline = s.ssDeadline ∧ (writeFrame a d s).diag = s.diag ∧
    (writeFrame a d s).minOut = s.minOut ∧ (writeFrame a d s).posOut = s.posOut ∧
    (writeFrame a d s).snap = s.snap ∧ (writeFrame a d s).lastT = s.lastT := by
  simp [writeFrame]

/-- The words of a state after WRITE are those after its register write. -/
theorem writeFrame_reg (a b : Addr) (d : Word) (s : State) : (writeFrame a d s).reg b = (regWrite a d s).reg b :=
  reg_congr (writeFrame_fields a d s).2.2.2.2.2.2.2.2.2.1 b

end Sys2Proof.Machine
end

