-- ==== Sys2Proof/Laws/Framer.lean ====
section
/-! SUPPORT. The framer: what a commit, a chip-select level and a byte do to each field. -/

namespace Sys2Proof.Machine
open Sys2Proof

/-- A commit is the decoded command's own effect (40_spi_framer.md R108). -/
theorem exec_decodeFrame (f : Frame) (s : State) : exec (decodeFrame f) s = .next (commit f s) := by
  unfold decodeFrame commit
  split <;> rfl

/-- A commit changes at most the reply latch, the register file and the reset flag. -/
@[simp] theorem commit_fields (f : Frame) (s : State) :
    (commit f s).par = s.par ∧ (commit f s).inbox = s.inbox ∧ (commit f s).out = s.out ∧ (commit f s).ret = s.ret ∧
    (commit f s).csLvl = s.csLvl ∧ (commit f s).acc = s.acc ∧ (commit f s).nb = s.nb ∧ (commit f s).shout = s.shout ∧
    (commit f s).fDrvErr = s.fDrvErr ∧ (commit f s).sg = s.sg ∧ (commit f s).stst = s.stst ∧
    (commit f s).ovr = s.ovr ∧ (commit f s).axis = s.axis ∧ (commit f s).stepLvl = s.stepLvl ∧
    (commit f s).dirLvl = s.dirLvl ∧ (commit f s).enLvl = s.enLvl ∧ (commit f s).ssDeadline = s.ssDeadline ∧
    (commit f s).diag = s.diag ∧ (commit f s).minOut = s.minOut ∧ (commit f s).posOut = s.posOut ∧
    (commit f s).snap = s.snap ∧ (commit f s).lastT = s.lastT := by
  unfold commit
  split <;> simp

/-- The status half of the reply that a commit latches shows the flags before the commit (R109). -/
theorem statusShows_commit (f : Frame) (s : State) : StatusShows (commit f s).reply s := by
  unfold commit
  split <;> simp [statusShows_latch]

/-- A commit does not read or change the model's own outputs. -/
theorem commit_clearOut (f : Frame) (s : State) :
    (commit f (clearOut s)).reply = (commit f s).reply ∧ (commit f (clearOut s)).regs = (commit f s).regs ∧
    (commit f (clearOut s)).fReset = (commit f s).fReset := by
  unfold commit
  split
  · simp only [writeFrame_fields]
    refine ⟨rfl, ?_, rfl⟩
    unfold regWrite
    simp only [clearOut_par]
    split <;> rfl
  · simp only [readFrame_fields]
    exact ⟨rfl, rfl, rfl⟩

/-- A chip-select level changes no field outside the framer but what a commit changes. -/
@[simp] theorem chipSelect_fields (l : Level) (s : State) :
    (chipSelect l s).par = s.par ∧ (chipSelect l s).inbox = s.inbox ∧ (chipSelect l s).out = s.out ∧
    (chipSelect l s).ret = s.ret ∧ (chipSelect l s).fDrvErr = s.fDrvErr ∧ (chipSelect l s).sg = s.sg ∧
    (chipSelect l s).stst = s.stst ∧ (chipSelect l s).ovr = s.ovr ∧ (chipSelect l s).axis = s.axis ∧
    (chipSelect l s).stepLvl = s.stepLvl ∧ (chipSelect l s).dirLvl = s.dirLvl ∧ (chipSelect l s).enLvl = s.enLvl ∧
    (chipSelect l s).ssDeadline = s.ssDeadline ∧ (chipSelect l s).diag = s.diag ∧
    (chipSelect l s).minOut = s.minOut ∧ (chipSelect l s).posOut = s.posOut ∧ (chipSelect l s).snap = s.snap ∧
    (chipSelect l s).lastT = s.lastT := by
  unfold chipSelect deassertEdge
  split
  · simp
  · split
    · and_intros <;> rfl
    · split <;> simp

/-- A byte changes no field outside the framer but the byte out (R106, R107). -/
@[simp] theorem byteArrives_fields (b : Byte) (s : State) :
    (byteArrives b s).par = s.par ∧ (byteArrives b s).inbox = s.inbox ∧ (byteArrives b s).ret = s.ret ∧
    (byteArrives b s).csLvl = s.csLvl ∧ (byteArrives b s).reply = s.reply ∧ (byteArrives b s).regs = s.regs ∧
    (byteArrives b s).fReset = s.fReset ∧ (byteArrives b s).fDrvErr = s.fDrvErr ∧ (byteArrives b s).sg = s.sg ∧
    (byteArrives b s).stst = s.stst ∧ (byteArrives b s).ovr = s.ovr ∧ (byteArrives b s).axis = s.axis ∧
    (byteArrives b s).stepLvl = s.stepLvl ∧ (byteArrives b s).dirLvl = s.dirLvl ∧
    (byteArrives b s).enLvl = s.enLvl ∧ (byteArrives b s).ssDeadline = s.ssDeadline ∧
    (byteArrives b s).diag = s.diag ∧ (byteArrives b s).minOut = s.minOut ∧ (byteArrives b s).posOut = s.posOut ∧
    (byteArrives b s).snap = s.snap ∧ (byteArrives b s).lastT = s.lastT := by
  unfold byteArrives
  split <;> and_intros <;> rfl

/-- The byte counter counts to 6 and stays there (10_state.md R24). -/
theorem countByte_val (n : Fin 7) : (countByte n).val = min (n.val + 1) 6 := by
  unfold countByte
  split
  · simp only []; omega
  · omega

end Sys2Proof.Machine
end

