-- ==== Sys2Proof/Laws/Integrator.lean ====
section
/-! SUPPORT. The integrator, the timer, the actions and CONFIG: what each changes, and the arithmetic of the step count. -/

namespace Sys2Proof.Machine
open Sys2Proof

/-- `qualifies` says what R161 says. -/
theorem qualifies_iff (s : State) (l : Level) : qualifies s s.stepLvl l = true ↔ StepEdge s l := by
  unfold qualifies doubleEdge StepEdge
  cases s.par.dedgeHonored <;> cases (s.reg 0x6C).getLsbD 29 <;> cases s.stepLvl <;> cases l <;> simp

/-- A level on STEP is a counted step or only tracked (R160, R162). -/
theorem stepArrives_cases (l : Level) (t : Nat) (ax : AxisState) (s : State) :
    (StepEdge s l ∧ s.enabled = true ∧ stepArrives l t ax s = countStep t ax { s with stepLvl := l }) ∨
    ((¬ StepEdge s l ∨ s.enabled = false) ∧ stepArrives l t ax s = { s with stepLvl := l }) := by
  unfold stepArrives
  rw [← qualifies_iff]
  cases qualifies s s.stepLvl l <;> cases s.enabled <;> simp

/-- A truth function of the register file reads nothing else. -/
theorem evalRegBool_congr {s s' : State} (h : s'.regs = s.regs) (p : RegBool) : evalRegBool s' p = evalRegBool s p := by
  induction p <;> simp_all [evalRegBool, State.reg]

/-- The mode bit does not read the step's outputs. -/
@[simp] theorem stallModeOn_clearOut (s : State) : stallModeOn (clearOut s) = stallModeOn s := by
  unfold stallModeOn
  exact evalRegBool_congr (clearOut_regs s) s.par.stallMode

/-- An integer inside the 32-bit range is its own two's-complement value. -/
theorem toInt_ofInt_of_range {n : Int} (h1 : -(2 ^ 31) ≤ n) (h2 : n ≤ 2 ^ 31 - 1) : (BitVec.ofInt 32 n).toInt = n := by
  rw [BitVec.toInt_ofInt]
  exact Int.bmod_eq_of_le (by omega) (by omega)

/-- A clamped value lies between its bounds. -/
theorem clamp_mem {x lo hi : Int} (h : lo ≤ hi) : lo ≤ clamp x lo hi ∧ clamp x lo hi ≤ hi := by
  unfold clamp; omega

/-- The travel bound of a valid record is a natural number below 2^31 (43_actions_config.md R206). -/
theorem travelBound_range {c : AxisConfig} (h : configValid c = true) :
    0 ≤ travelBound c ∧ travelBound c ≤ 2 ^ 31 - 1 := by
  simp only [configValid, Bool.and_eq_true, decide_eq_true_eq] at h
  exact ⟨Int.mul_nonneg h.1.2.1 (by omega), h.1.2.2⟩

/-- A bounded count with end-stops is the clamped value itself (42_step_integrator.md R168, R172). -/
theorem boundedCount_endStops {ax : AxisState} {n : Int} (hb : (ax.maxSteps : Int) ≤ 2 ^ 31 - 1)
    (he : ax.cfg.noEndStops = false) : (boundedCount ax n).toInt = min (max n 0) ax.maxSteps := by
  have hc := clamp_mem (x := n) (lo := 0) (hi := ax.maxSteps) (by omega)
  simp only [boundedCount, he, Bool.false_eq_true, if_false]
  rw [toInt_ofInt_of_range (by omega) (by omega)]; rfl

/-- A bounded count without end-stops wraps to 32-bit two's complement (R169). -/
theorem boundedCount_free {ax : AxisState} {n : Int} (he : ax.cfg.noEndStops = true) :
    (boundedCount ax n).toInt = n.bmod (2 ^ 32) := by
  simp [boundedCount, he, BitVec.toInt_ofInt]

/-- The axis that a valid record sets up meets the axis invariant (R175, R176). -/
theorem initialAxis_inv {c : AxisConfig} (h : configValid c = true) :
    ((initialAxis c).maxSteps : Int) = c.maxMM * c.stepsPerMM ∧
    (c.noEndStops = false → 0 ≤ (initialAxis c).stepCount.toInt ∧
      (initialAxis c).stepCount.toInt ≤ (initialAxis c).maxSteps) := by
  obtain ⟨h0, h1⟩ := travelBound_range h
  have hm : (((travelBound c).toNat : Nat) : Int) = travelBound c := Int.toNat_of_nonneg h0
  refine ⟨hm, fun he => ?_⟩
  have hc := clamp_mem (x := startStep c) (lo := 0) (hi := ((travelBound c).toNat : Int)) (by omega)
  simp only [initialAxis, he, Bool.false_eq_true, if_false]
  rw [toInt_ofInt_of_range (by omega) (by omega)]
  exact hc

end Sys2Proof.Machine
end

