-- ==== Sys2Proof/Laws/PerInstr.lean ====
section
/-! SUPPORT. What holds of every instruction as syntax, one lemma per constructor: its code carries its time stamp, and is a
frame exactly for the two frame commands. -/

namespace Sys2Proof

/-- The time stamp a code carries; a frame carries none (00_scope.md R15, 30_encoding.md R80, R88). -/
def Code.time? : Code → Option Nat
  | .frame _ => none
  | .event e => some e.time

/-- The code is a 40-bit frame, the format F40 of opcode_table.json. -/
def Code.isFrame : Code → Bool
  | .frame _ => true
  | .event _ => false

end Sys2Proof

namespace Sys2Proof.Laws.StampKept
open Sys2Proof

/-- The code of an instruction carries the instruction's time stamp, and is a frame exactly when the instruction is a frame
command, whatever ACTION_ID is (R80, R88, R200). -/
def Statement (i : Instr) : Prop :=
  ∀ ids : ActionIds, (encode ids i).time? = i.time? ∧ (encode ids i).isFrame = i.isFrame

theorem read (a : Addr) (d : Word) : Statement (.read a d) := fun _ => ⟨rfl, rfl⟩

theorem write (a : Addr) (d : Word) : Statement (.write a d) := fun _ => ⟨rfl, rfl⟩

theorem csel (v : Int) (t : Nat) : Statement (.csel v t) := fun _ => ⟨rfl, rfl⟩

theorem byteIn (v : Int) (t : Nat) : Statement (.byteIn v t) := fun _ => ⟨rfl, rfl⟩

theorem step (v : Int) (t : Nat) : Statement (.step v t) := fun _ => ⟨rfl, rfl⟩

theorem dir (v : Int) (t : Nat) : Statement (.dir v t) := fun _ => ⟨rfl, rfl⟩

theorem en (v : Int) (t : Nat) : Statement (.en v t) := fun _ => ⟨rfl, rfl⟩

theorem timeout (t : Nat) : Statement (.timeout t) := fun _ => ⟨rfl, rfl⟩

theorem toggleStall (args : List String) (t : Nat) : Statement (.toggleStall args t) := fun _ => ⟨rfl, rfl⟩

theorem setDiag (args : List String) (t : Nat) : Statement (.setDiag args t) := fun _ => ⟨rfl, rfl⟩

theorem resetDiag (args : List String) (t : Nat) : Statement (.resetDiag args t) := fun _ => ⟨rfl, rfl⟩

theorem actionInvalid (id : Int) (args : List String) (t : Nat) : Statement (.actionInvalid id args t) :=
  fun _ => ⟨rfl, rfl⟩

theorem config (c : AxisConfig) (t : Nat) : Statement (.config c t) := fun _ => ⟨rfl, rfl⟩

theorem reset (t : Nat) : Statement (.reset t) := fun _ => ⟨rfl, rfl⟩

end Sys2Proof.Laws.StampKept
end

