-- ==== Sys2Proof/Laws/Trace.lean ====
section
/-! SUPPORT. What every instruction leaves alone, and runs of several instructions: one instruction more, and two runs after one another. -/

namespace Sys2Proof.Machine
open Sys2Proof

/-- No instruction changes the parameters or the deliveries still to be handled. -/
theorem ran_own {i : Instr} {s s' : State} (h : Ran s i s') : SameOwn s s' := by
  cases h <;> simp [SameOwn]

/-- A run that answers ran its first instruction and then the rest. -/
theorem runTrace_cons {i : Instr} {is : List Instr} {s s2 : State} {o : List OutEvent}
    (h : runTrace (i :: is) s = some (s2, o)) :
    ∃ s1 o2, exec i s = .next s1 ∧ runTrace is s1 = some (s2, o2) ∧ o = s1.out ++ o2 := by
  simp only [runTrace] at h
  cases he : exec i s with
  | next s1 =>
    rw [he] at h
    simp only [Option.map_eq_some_iff] at h
    obtain ⟨⟨a, b⟩, h1, h2⟩ := h
    cases h2
    exact ⟨s1, _, rfl, h1, rfl⟩
  | fault r => rw [he] at h; cases h
  | refused r => rw [he] at h; cases h

/-- A run of one instruction more. -/
theorem runTrace_cons_of {i : Instr} {is : List Instr} {s s1 s2 : State} {o : List OutEvent}
    (h : exec i s = .next s1) (hr : runTrace is s1 = some (s2, o)) :
    runTrace (i :: is) s = some (s2, s1.out ++ o) := by
  simp [runTrace, h, hr]

/-- Two runs after one another. -/
theorem runTrace_append_of {is js : List Instr} {s s1 s2 : State} {o o' : List OutEvent}
    (h : runTrace is s = some (s1, o)) (hr : runTrace js s1 = some (s2, o')) :
    runTrace (is ++ js) s = some (s2, o ++ o') := by
  induction is generalizing s o with
  | nil => cases h; simpa using hr
  | cons i is ih =>
    obtain ⟨s3, o2, h1, h2, rfl⟩ := runTrace_cons h
    rw [List.cons_append, runTrace_cons_of h1 (ih h2), List.append_assoc]

/-- Whatever each instruction keeps, a run keeps. -/
theorem runTrace_induct {P : State → Prop} {is : List Instr} {s s' : State} {o : List OutEvent}
    (hstep : ∀ i ∈ is, ∀ s s', Ran s i s' → P s → P s') (h : runTrace is s = some (s', o)) (hp : P s) : P s' := by
  induction is generalizing s o with
  | nil => cases h; exact hp
  | cons i is ih =>
    obtain ⟨s1, o2, h1, h2, -⟩ := runTrace_cons h
    exact ih (fun j hj => hstep j (List.mem_cons_of_mem _ hj)) h2 (hstep i List.mem_cons_self _ _ (exec_ran h1) hp)

end Sys2Proof.Machine
end

