-- ==== Sys2Proof/Laws/Transfer.lean ====
section
/-! SUPPORT. Transactions: a run of bytes while Receiving, the frame that five bytes are, and the two chip-select edges. -/

namespace Sys2Proof.Machine
open Sys2Proof

/-- `acc` after one more byte (40_spi_framer.md R106). -/
def shiftIn (a : Frame) (b : Byte) : Frame := (a <<< 8) ||| b.setWidth 40

/-- What a run of bytes does while Receiving. -/
structure BytesRan (bs : List (Int × Nat)) (s s' : State) : Prop where
  csLvl : s'.csLvl = s.csLvl
  reply : s'.reply = s.reply
  regs : s'.regs = s.regs
  other : SameOutsideFramer s s'
  acc : s'.acc = bs.foldl (fun a b => shiftIn a (trunc8 b.1)) s.acc
  nb : s'.nb.val = min (s.nb.val + bs.length) 6
  shout : s'.shout = s.shout <<< (8 * bs.length)

/-- The top byte of a register shifted by k bytes is its (k+1)-th byte, 0x00 from the sixth on (40_spi_framer.md R117). -/
theorem topByte_shift (f : Frame) (k : Nat) : (f <<< (8 * k)).extractLsb' 32 8 = frameByte f (k + 1) := by
  apply BitVec.eq_of_getLsbD_eq
  intro i hi
  unfold frameByte
  simp only [BitVec.getLsbD_extractLsb', BitVec.getLsbD_shiftLeft, hi, decide_true, Bool.true_and]
  split
  · have h1 : 32 + i < 40 := by omega
    have h2 : ¬ (32 + i < 8 * k) := by omega
    simp only [BitVec.getLsbD_extractLsb', hi, decide_true, Bool.true_and, h1, h2, decide_false, Bool.not_false]
    congr 1; omega
  · have h2 : (32 + i < 8 * k) := by omega
    simp [h2]

/-- A byte while Receiving is shifted (R106). -/
theorem execByteIn_receiving {s : State} {ax : AxisState} {v : Int} {t : Nat} (ha : s.axis = some ax) (hr : s.receiving = true)
    (h : s.lastT ≤ t) : exec (.byteIn v t) s = .next (finish t (shiftByte (trunc8 v) (clearOut s))) := by
  have := ran_exec (.byteIn v t ax ha h)
  rw [this]; unfold byteArrives
  rw [if_pos (by exact hr)]

/-- A run of bytes while Receiving: what goes out is the shift register byte by byte, what comes in is accumulated (R63, R106). -/
theorem bytes_run (bs : List (Int × Nat)) : ∀ (s : State) (ax : AxisState), s.axis = some ax → s.receiving = true →
    Ordered s.lastT (bytesIn bs) → ∀ tail, Ordered s.lastT (bytesIn bs ++ tail) →
    ∃ s', runTrace (bytesIn bs) s = some (s', (List.range bs.length).map fun k => .spiByteOut (frameByte s.shout (k + 1))) ∧
      BytesRan bs s s' ∧ Ordered s'.lastT tail := by
  induction bs with
  | nil =>
    intro s ax _ _ _ tail ht
    exact ⟨s, rfl, ⟨rfl, rfl, rfl, by simp [SameOutsideFramer, SameFlags, SameIntegrator, SameOutputs, SameOwn], rfl,
      by simp; omega, by simp⟩, ht⟩
  | cons b bs ih =>
    intro s ax ha hr hs tail ht
    have he := execByteIn_receiving (v := b.1) (t := b.2) ha hr hs.1
    obtain ⟨s', h1, h2, h3⟩ := ih (finish b.2 (shiftByte (trunc8 b.1) (clearOut s))) ax ha hr hs.2 tail ht.2
    refine ⟨s', ?_, ?_, h3⟩
    · show runTrace (.byteIn b.1 b.2 :: bytesIn bs) s = _
      rw [runTrace_cons_of he h1]
      congr 2
      rw [List.length_cons, List.range_succ_eq_map, List.map_cons, List.map_map]
      show [OutEvent.spiByteOut (s.shout.extractLsb' 32 8)] ++ _ = _
      rw [List.singleton_append]
      refine congrArg₂ List.cons ?_ ?_
      · simpa using topByte_shift s.shout 0
      · apply List.map_congr_left
        intro k hk
        show OutEvent.spiByteOut (frameByte (s.shout <<< 8) (k+1)) = OutEvent.spiByteOut (frameByte s.shout (k + 1 + 1))
        rw [← topByte_shift, ← topByte_shift, ← BitVec.shiftLeft_add]
        congr 3; omega
    · refine ⟨h2.csLvl, h2.reply, h2.regs, h2.other, h2.acc, ?_, ?_⟩
      · rw [h2.nb]
        show min ((countByte s.nb).val + bs.length) 6 = _
        rw [countByte_val, List.length_cons]; omega
      · rw [h2.shout]
        show (s.shout <<< 8) <<< (8 * bs.length) = _
        rw [← BitVec.shiftLeft_add, List.length_cons]; congr 1; omega

/-- Five bytes accumulate to their frame. -/
theorem acc_five (f : Frame) (b1 b2 b3 b4 b5 : Byte) :
    [b1, b2, b3, b4, b5].foldl shiftIn f = frameOfBytes b1 b2 b3 b4 b5 := by
  apply BitVec.eq_of_getLsbD_eq
  intro i hi
  simp only [List.foldl, shiftIn, frameOfBytes, BitVec.getLsbD_append, BitVec.getLsbD_or, BitVec.getLsbD_shiftLeft, BitVec.getLsbD_setWidth]
  have hge : ∀ (b : Byte) (j : Nat), 8 ≤ j → b.getLsbD j = false := fun b j h => BitVec.getLsbD_of_ge b j h
  by_cases h1 : i < 8
  · simp [h1, hi]
  have e1 : i - 8 < 40 := by omega
  rw [hge b5 i (by omega)]
  by_cases h2 : i < 16
  · have : i - 8 < 8 := by omega
    simp [h1, hi, e1, this]
  have e2 : i - 8 - 8 < 40 := by omega
  have f2 : ¬ i - 8 < 8 := by omega
  rw [hge b4 (i - 8) (by omega)]
  by_cases h3 : i < 24
  · have : i - 8 - 8 < 8 := by omega
    simp [h1, hi, e1, e2, f2, this]
  have e3 : i - 8 - 8 - 8 < 40 := by omega
  have f3 : ¬ i - 8 - 8 < 8 := by omega
  rw [hge b3 (i - 8 - 8) (by omega)]
  by_cases h4 : i < 32
  · have : i - 8 - 8 - 8 < 8 := by omega
    simp [h1, hi, e1, e2, e3, f2, f3, this]
  have e4 : i - 8 - 8 - 8 - 8 < 40 := by omega
  have f4 : ¬ i - 8 - 8 - 8 < 8 := by omega
  have e5 : i - 8 - 8 - 8 - 8 < 8 := by omega
  rw [hge b2 (i - 8 - 8 - 8) (by omega)]
  simp [h1, hi, e1, e2, e3, e4, f2, f3, f4, e5]

/-- CSEL at the assertion edge (R102). -/
theorem execCsel_assert {s : State} {ax : AxisState} {v : Int} {t : Nat} (ha : s.axis = some ax) (hr : s.receiving = false)
    (hv : lvl v = s.par.csAssertLevel) (h : s.lastT ≤ t) :
    exec (.csel v t) s = .next (finish t (assertEdge (clearOut s))) := by
  rw [ran_exec (.csel v t ax ha h)]
  unfold chipSelect
  rw [if_neg (by intro he; simp [State.receiving, ← hv, he] at hr), if_pos (by exact hv)]

/-- CSEL at the de-assertion edge (R104). -/
theorem execCsel_deassert {s : State} {ax : AxisState} {v : Int} {t : Nat} (ha : s.axis = some ax) (hr : s.receiving = true)
    (hv : lvl v ≠ s.par.csAssertLevel) (h : s.lastT ≤ t) :
    exec (.csel v t) s = .next (finish t (deassertEdge (clearOut s))) := by
  rw [ran_exec (.csel v t ax ha h)]
  unfold chipSelect
  have hr : s.csLvl = s.par.csAssertLevel := by simpa [State.receiving] using hr
  rw [if_neg (by intro he; exact hv (he.trans hr)), if_neg (by exact hv)]
/-- The status byte reads the four status flags and nothing else (10_state.md R29). -/
theorem statusByte_congr {s s' : State} (h : SameFlags s s') : statusByte s' = statusByte s := by
  obtain ⟨h1, h2, h3, h4, -⟩ := h
  simp [statusByte, h1, h2, h3, h4]

/-- A commit reads the parameters, the registers, the reply latch and the status flags, and nothing else (R108). -/
theorem commit_congr {f : Frame} {s s' : State} (hp : s'.par = s.par) (hr : s'.regs = s.regs) (hl : s'.reply = s.reply)
    (hf : SameFlags s s') :
    (commit f s').reply = (commit f s).reply ∧ (commit f s').regs = (commit f s).regs ∧
    (commit f s').fReset = (commit f s).fReset := by
  have hst := statusByte_congr hf
  obtain ⟨h1, h2, h3, h4, -⟩ := hf
  unfold commit
  split
  · simp only [writeFrame_fields, hst, State.replyData, hl, h1, true_and, and_true]
    unfold regWrite
    rw [hp, reg_congr hr]
    split <;> simp [hr]
  · simp only [readFrame_fields, hst, hr, h1, hp, and_true]
    simp only [regRead, liveBits, hp, reg_congr hr, h1, h2, h3, h4]

/-- A first part of an ordered list is ordered. -/
theorem ordered_append_left {t : Nat} : ∀ (is js : List Instr), Ordered t (is ++ js) →
    Ordered t is := by
  intro is
  induction is generalizing t with
  | nil => intros; trivial
  | cons i is ih =>
    intro js h
    simp only [List.cons_append, Ordered] at h ⊢
    split at h
    · exact ⟨h.1, ih _ h.2⟩
    · exact ih _ h

/-- An instruction that performs a frame command latches the reply and writes the register that the command does. -/
theorem performs_next {s s' : State} {i c : Instr} (hp : Performs s i c) (h : exec i s = .next s') :
    ∃ s1, exec c s = .next s1 ∧ s'.reply = s1.reply ∧ s'.regs = s1.regs ∧ s'.par = s1.par := by
  rcases hp with rfl | ⟨v, t, rfl, hr, hv, hn, hd⟩
  · exact ⟨_, h, rfl, rfl, rfl⟩
  · cases exec_ran h with
    | csel _ _ ax ha hle =>
      refine ⟨commit s.acc s, by rw [← hd]; exact exec_decodeFrame _ _, ?_⟩
      have := execCsel_deassert ha hr hv hle
      have heq := Host.Outcome.next.inj (h.symm.trans this)
      rw [heq]
      simp [deassertEdge, hn]
      exact ⟨(commit_clearOut _ _).1, (commit_clearOut _ _).2.1⟩

end Sys2Proof.Machine
end

