-- ==== Sys2Proof/Tests/Slice0.lean ====
section
/-! SUPPORT. Tests: the checks refuse ill-formed terms, words and events written out from the spec decode, one step of each
instruction on a small state, and for every statement with hypotheses a state and operands that meet them. Expected values
are those of spec/95_test_vectors.md, by the name of the vector, or worked out by hand from the rule cited. -/

namespace Sys2Proof.Tests
open Sys2Proof Sys2Proof.Machine

/-! ### Small states -/

/-- The default parameters with `T_SS = 1000` (95_test_vectors.md). -/
def testParams : Params := { defaultParams with standstillWindow := 1000, axisId := "X" }

/-- CFG_A of 95_test_vectors.md. -/
def cfgA : AxisConfig :=
  { inverted := false, stepsPerMM := 100, maxMM := 200, startMM := .finite 10, noEndStops := false }

/-- CFG_C of 95_test_vectors.md. -/
def cfgC : AxisConfig :=
  { inverted := true, stepsPerMM := 1, maxMM := 0, startMM := .finite 0, noEndStops := true }

/-- R: the state after the implicit RESET at time 0. -/
def stateR : State := { State.reset with par := testParams }

/-- An axis configured with CFG_A at a step count. -/
def axisA (n : BitVec 32) : AxisState := { cfg := cfgA, maxSteps := 20000, stepCount := n }

/-- An axis configured with CFG_C at a step count. -/
def axisC (n : BitVec 32) : AxisState := { cfg := cfgC, maxSteps := 0, stepCount := n }

/-- 'Start R+A': CONFIG CFG_A handled at time 1. -/
def stateRA : State := { stateR with axis := some (axisA 1000), posOut := 1000, lastT := 1 }

/-- R+A, up and enabled. -/
def upOn : State := { stateRA with dirLvl := true, enLvl := true, lastT := 3 }

/-- V-S14's start: at the upper bound, counting up, with DIAG_ON_CLAMP. -/
def atBound : State := { upOn with axis := some (axisA 20000), par := { testParams with diagOnClamp := true } }

/-- R+A while Receiving, with `n` bytes accumulated in `f` and `r` latched. -/
def recv (n : Fin 7) (f r : Frame) : State := { stateRA with csLvl := false, nb := n, acc := f, reply := r, shout := r }

/-- R+A with a standstill deadline at 6000. -/
def armed : State := { upOn with ssDeadline := some 6000, lastT := 5001 }

/-- A field of the next state an instruction answers. -/
def got {α : Type} (r : Result) (f : State → α) : Option α :=
  match r with
  | .next s => some (f s)
  | .fault _ => none
  | .refused _ => none

/-- Why an instruction is refused. -/
def why (r : Result) : Option Refusal :=
  match r with
  | .next _ => none
  | .fault _ => none
  | .refused e => some e

/-! ### Well-formedness -/

/-- R201: the id of a known action is no ACTION_INVALID. -/
theorem test_wf_refuses_known_id : (Instr.actionInvalid 1 [] 0).wf testParams.actionId = false := by decide

/-- R9: ACTION_ID is injective. -/
theorem test_wf_refuses_equal_ids :
    ActionIds.wf { toggleStall := 0, setDiag := 0, resetDiag := 2 } = false := by decide

/-- R9: T_SS is at least 1. -/
theorem test_wf_refuses_empty_window : Params.wf { testParams with standstillWindow := 0 } = false := by decide

theorem test_wf_accepts_defaults : Params.wf testParams = true := by decide

/-! ### Decoding -/

/-- L1-9: `W 0x6C, 0x000100C3` is the bytes `EC 00 01 00 C3`. -/
theorem test_decode_write : decodeBytes [0xEC, 0x00, 0x01, 0x00, 0xC3] = .ok (.write 0x6C 0x000100C3) := by decide

/-- P1: `10 00 00 00 00` is `R 0x10`. -/
theorem test_decode_read : decodeBytes [0x10, 0, 0, 0, 0] = .ok (.read 0x10 0) := by decide

/-- R86: four or six bytes are no frame. -/
theorem test_decode_lengths :
    decodeBytes [0x90, 0x00, 0x07, 0x1F] = .error (.frameLength 4) ∧
    decodeBytes [0x90, 0x00, 0x07, 0x1F, 0x10, 0x00] = .error (.frameLength 6) := by decide

/-- R88: one event of each kind that is no ACTION. -/
theorem test_decode_events :
    decodeEvent testParams.actionId { kind := .csel 0, time := 10 } = .csel 0 10 ∧
    decodeEvent testParams.actionId { kind := .byteIn 0xEC, time := 11 } = .byteIn 0xEC 11 ∧
    decodeEvent testParams.actionId { kind := .step 7, time := 12 } = .step 7 12 ∧
    decodeEvent testParams.actionId { kind := .dir 1, time := 13 } = .dir 1 13 ∧
    decodeEvent testParams.actionId { kind := .en (-1), time := 14 } = .en (-1) 14 ∧
    decodeEvent testParams.actionId { kind := .timeout, time := 15 } = .timeout 15 ∧
    decodeEvent testParams.actionId { kind := .reset, time := 16 } = .reset 16 := by decide

theorem test_decode_config : decodeEvent testParams.actionId { kind := .config cfgA, time := 1 } = .config cfgA 1 := rfl

/-- R200: ids 0, 1, 2 are ToggleStall, SetDiag, ResetDiag; R201: 7 and -1 are no id. -/
theorem test_decode_actions :
    decodeEvent testParams.actionId { kind := .action 0 [], time := 5 } = .toggleStall [] 5 ∧
    decodeEvent testParams.actionId { kind := .action 1 [], time := 5 } = .setDiag [] 5 ∧
    decodeEvent testParams.actionId { kind := .action 2 ["x"], time := 5 } = .resetDiag ["x"] 5 ∧
    decodeEvent testParams.actionId { kind := .action 7 [], time := 5 } = .actionInvalid 7 [] 5 ∧
    decodeEvent testParams.actionId { kind := .action (-1) [], time := 5 } = .actionInvalid (-1) [] 5 := by decide

/-- R80, R81: bit 39 is RW, bits 38:32 the address. -/
theorem test_table_words :
    decodeTableWord 40 0x8000000000 = some (.write 0 0) ∧ decodeTableWord 40 0 = some (.read 0 0) ∧
    decodeTableWord 40 0xEC000100C3 = some (.write 0x6C 0x000100C3) := by decide

/-- The frame placed after reset is committed by the very next step (log entry 13). -/
theorem test_placed_write_runs :
    got (step (State.reset.withFetchWord 40 0xEC000100C3)) (fun s => s.reg 0x6C) = some 0x000100C3 := by
  decide +kernel

theorem test_placed_read_runs :
    got (step (State.reset.withFetchWord 40 0x0100000000)) (fun s => (s.reply, s.fReset)) =
      some (0x0100000001, false) := by decide +kernel

/-- Log entry 2: with nothing delivered the block does nothing. -/
theorem test_idle_step : step State.reset = .next State.reset := rfl

/-! ### One step of each instruction -/

/-- V-F4: the write mask of IHOLD_IRUN. -/
theorem test_write_masks :
    got (exec (.write 0x10 0xFFFFFFFF) stateRA) (fun s => (s.reg 0x10, s.reply)) =
      some (0x000F1F1F, 0x0100000000) := by decide +kernel

/-- V-F7, V-F15: UNIMPL and STATUS_RO ignore a write. -/
theorem test_write_ignored :
    got (exec (.write 0x05 0x12345678) stateRA) (fun s => s.reg 0x05) = some 0 ∧
    got (exec (.write 0x6F 0xFFFFFFFF) stateRA) (fun s => regRead s 0x6F) = some 0 := by decide +kernel

/-- V-F14: `sg` and `stst` in the status byte and in DRV_STATUS. -/
theorem test_read_drv_status :
    got (exec (.read 0x6F 0) { stateRA with sg := true, stst := true }) (fun s => s.reply) =
      some 0x0D81000000 := by decide +kernel

/-- V-F6: the first READ of GSTAT latches the reset flag and clears it. -/
theorem test_read_gstat :
    got (exec (.read 0x01 0) stateRA) (fun s => (s.reply, s.fReset)) = some (0x0100000001, false) := by decide +kernel

/-- V-F2: the de-assertion commits five bytes. -/
theorem test_csel_commits :
    got (exec (.csel 1 20) (recv 5 0xEC000100C3 0)) (fun s => (s.reg 0x6C, s.reply, s.receiving, s.nb)) =
      some (0x000100C3, 0x0100000000, false, 0) := by decide +kernel

/-- V-F8, V-F9: four or six bytes are dropped. -/
theorem test_csel_drops :
    got (exec (.csel 1 20) (recv 4 0x0090000719 0x01000100C3)) (fun s => (s.regs == stateRA.regs, s.reply)) =
      some (true, 0x01000100C3) ∧
    got (exec (.csel 1 20) (recv 6 0x00071F1000 0x01000100C3)) (fun s => (s.reg 0x10, s.reply)) =
      some (0, 0x01000100C3) := by decide +kernel

/-- V-F12: a value above 255 enters as its low 8 bits; R106: the top byte goes out. -/
theorem test_byte_in_truncates :
    got (exec (.byteIn 0x1EC 11) (recv 0 0 0x0D81000000)) (fun s => (s.acc, s.nb, s.shout, s.out)) =
      some (0xEC, 1, 0x8100000000, [.spiByteOut 0x0D]) := by decide +kernel

/-- R106: the counter stays at 6; V-F11: a byte while Idle is ignored. -/
theorem test_byte_in_limits :
    got (exec (.byteIn 0 11) (recv 6 0 0)) (fun s => s.nb) = some 6 ∧
    got (exec (.byteIn 0xEC 11) stateRA) (fun s => (s.acc, s.nb, s.out)) = some (0, 0, []) := by decide +kernel

/-- V-S1: one step up. -/
theorem test_step_up :
    got (exec (.step 1 10) upOn) (fun s => (s.out, s.ssDeadline)) =
      some ([.position 1001, .min false], some 1010) := by decide +kernel

/-- V-S9, V-S10: below zero without end-stops, and the wrap. -/
theorem test_step_free_running :
    got (exec (.step 1 4) { upOn with axis := some (axisC 0) }) (fun s => s.out) =
      some [.position (-1), .min true] ∧
    got (exec (.step 1 4) { upOn with axis := some (axisC 2147483647), dirLvl := false }) (fun s => s.out) =
      some [.position (-2147483648), .min true] := by decide +kernel

/-- V-S14: a clamped step with DIAG_ON_CLAMP. -/
theorem test_step_clamps :
    got (exec (.step 1 4) atBound) (fun s => (s.sg, s.out)) =
      some (true, [.diag true, .position 20000, .min false]) := by decide +kernel

/-- V-S6: a falling edge does not count. -/
theorem test_step_falling :
    got (exec (.step 0 4) { upOn with stepLvl := true }) (fun s => (s.stepLvl, s.out)) = some (false, []) := by
  decide +kernel

/-- R164, R165: any value other than 0 is the level 1. -/
theorem test_dir_en :
    got (exec (.dir 5 4) stateRA) (fun s => s.dirLvl) = some true ∧
    got (exec (.en (-1) 4) stateRA) (fun s => (s.enLvl, s.snap.enabled)) = some (true, true) := by decide +kernel

/-- V-T1 and V-T2: DIAG rises with GCONF.diag0_stall only. -/
theorem test_timeout_fires :
    got (exec (.timeout 6000) armed) (fun s => (s.stst, s.ssDeadline, s.diag)) = some (true, none, false) ∧
    got (exec (.timeout 6000) (setReg 0x00 0x80 armed)) (fun s => (s.stst, s.out)) = some (true, [.diag true]) := by
  decide +kernel

/-- V-T3 and V-T7: any other time, and an unarmed timer. -/
theorem test_timeout_refused :
    why (exec (.timeout 5999) armed) = some .spuriousTimeout ∧
    why (exec (.timeout 9999) stateRA) = some .spuriousTimeout := by decide +kernel

/-- V-A1. -/
theorem test_toggle_stall :
    got (exec (.toggleStall [] 5) stateRA) (fun s => (s.sg, s.ovr, s.diag, s.out, s.ret)) =
      some (true, true, false, [], some .finished) := by decide +kernel

/-- V-A2: DIAG is emitted on its change only. -/
theorem test_set_diag :
    got (exec (.setDiag [] 5) stateRA) (fun s => (s.ovr, s.out)) = some (true, [.diag true]) ∧
    got (exec (.setDiag [] 5) { stateRA with diag := true }) (fun s => (s.diag, s.out)) = some (true, []) := by
  decide +kernel

/-- V-A3. -/
theorem test_reset_diag :
    got (exec (.resetDiag ["x"] 5) { stateRA with diag := true, stst := true, sg := true })
      (fun s => (s.diag, s.sg || s.stst, s.ovr, s.out, s.ret)) =
      some (false, false, true, [.diag false], some .finished) := by decide +kernel

/-- V-A4. -/
theorem test_action_invalid :
    got (exec (.actionInvalid 7 [] 5) stateRA) (fun s => (s.ret, s.out, s.ovr)) = some (some .error, [], false) := by
  decide +kernel

/-- V-C1, V-C2: the bound, the start position and its clamp. -/
theorem test_config_starts :
    got (exec (.config cfgA 1) stateR) (fun s => (s.axis.map (·.maxSteps), s.out)) =
      some (some 20000, [.position 1000, .min false]) ∧
    got (exec (.config { cfgA with startMM := .finite 250 } 1) stateR) (fun s => s.posOut) = some 20000 := by
  decide +kernel

/-- V-C5, V-C6: records that are not valid. -/
theorem test_config_refused :
    why (exec (.config { cfgA with stepsPerMM := 0 } 1) stateR) = some .badConfig ∧
    why (exec (.config { cfgA with maxMM := 30000000 } 1) stateR) = some .badConfig := by decide +kernel

/-- V-C3, V-C4: half-way positions are rounded away from zero. -/
theorem test_round_half_away :
    posToStep cfgA (1 / 200) = 1 ∧ posToStep cfgA (-1 / 200) = -1 ∧ posToStep cfgA (1 / 201) = 0 := by decide +kernel

/-- V-C7, V-C8, V-C9, V-R2: the refusals of the host contract. -/
theorem test_refusals :
    why (exec (.config cfgA 2) stateRA) = some .reconfigure ∧
    why (exec (.step 1 1) stateR) = some .notConfigured ∧ why (exec (.csel 0 1) stateR) = some .notConfigured ∧
    why (exec (.step 1 40) { stateRA with lastT := 50 }) = some .timeBackwards := by decide +kernel

/-- V-R1: RESET in the middle of a transaction. -/
theorem test_reset_mid_transaction :
    got (exec (.reset 30) (recv 5 0xEC000100C3 0x0100000000))
      (fun s => (s.regs == stateR.regs, s.receiving, s.reply, s.configured, s.lastT)) =
      some (true, false, 0, false, 30) := by decide +kernel

/-! ### Witnesses: the hypotheses of each statement can be met together -/

theorem ready_stateRA : Ready stateRA 5 := ⟨rfl, by decide⟩

theorem axisInv_axis {s : State} {ax : AxisState} (ha : s.axis = some ax) (hv : configValid ax.cfg = true)
    (hm : (ax.maxSteps : Int) = ax.cfg.maxMM * ax.cfg.stepsPerMM)
    (hb : ax.cfg.noEndStops = false → 0 ≤ ax.stepCount.toInt ∧ ax.stepCount.toInt ≤ ax.maxSteps) : AxisInv s := by
  intro ax' h
  cases ha.symm.trans h
  exact ⟨hv, hm, hb⟩

theorem axisInv_upOn : AxisInv upOn :=
  axisInv_axis rfl (by decide +kernel) (by decide) (by decide)

theorem axisInv_axisC : AxisInv { upOn with axis := some (axisC 2147483647) } :=
  axisInv_axis rfl (by decide +kernel) (by decide) (by decide)

theorem regFileInv_stateR : RegFileInv stateR := regFileInv_resetRegs rfl

/-- One event to handle, and none. -/
theorem test_met_StepRunsDecodedEvent :
    { stateR with inbox := [{ kind := .config cfgA, time := 1 }] }.inbox = { kind := .config cfgA, time := 1 } :: [] ∧
    stateR.inbox = [] := ⟨rfl, rfl⟩

theorem test_met_ResetRestoresEveryField : stateRA.lastT ≤ 1 ∧ regClass stateRA.par 0x05 = .unimpl ∧
    regClass stateRA.par 0x6C ≠ .unimpl := by decide

theorem test_met_FirstStateIsResetAtTimeZero :
    State.reset.par = defaultParams ∧ State.reset.inbox = [] ∧ State.reset.lastT = 0 := ⟨rfl, rfl, rfl⟩

theorem test_met_DecodeInvertsEncode :
    ActionIds.wf testParams.actionId = true ∧ (Instr.actionInvalid 3 [] 5).wf testParams.actionId = true ∧
    (Instr.actionInvalid (-1) [] 5).wf testParams.actionId = true := by decide

theorem test_met_AssertEdgeLoadsReply :
    Ready stateRA 1 ∧ stateRA.receiving = false ∧ lvl 0 = stateRA.par.csAssertLevel := ⟨⟨rfl, by decide⟩, rfl, rfl⟩

theorem test_met_DeassertCommitsFiveBytes :
    Ready (recv 5 0xEC000100C3 0) 20 ∧ (recv 5 0xEC000100C3 0).receiving = true ∧
    lvl 1 ≠ (recv 5 0xEC000100C3 0).par.csAssertLevel ∧ (recv 5 0xEC000100C3 0).nb = 5 :=
  ⟨⟨rfl, by decide⟩, rfl, by decide, rfl⟩

theorem test_met_DeassertDropsOtherLengths :
    Ready (recv 6 0 0) 20 ∧ (recv 6 0 0).receiving = true ∧ lvl 1 ≠ (recv 6 0 0).par.csAssertLevel ∧
    (recv 6 0 0).nb ≠ 5 ∧ (recv 4 0 0).nb ≠ 5 ∧ (recv 0 0 0).nb ≠ 5 :=
  ⟨⟨rfl, by decide⟩, rfl, by decide, by decide, by decide, by decide⟩

theorem test_met_RepeatedChipSelectIsNoEdge :
    Ready stateRA 5 ∧ lvl 7 = stateRA.csLvl ∧ Ready (recv 3 0 0) 5 ∧ lvl 0 = (recv 3 0 0).csLvl :=
  ⟨ready_stateRA, rfl, ⟨rfl, by decide⟩, rfl⟩

theorem test_met_ByteInShiftsOneByte :
    Ready (recv 0 0 0) 5 ∧ (recv 0 0 0).receiving = true ∧ Ready (recv 6 0 0) 5 ∧ (recv 6 0 0).receiving = true :=
  ⟨⟨rfl, by decide⟩, rfl, ⟨rfl, by decide⟩, rfl⟩

theorem test_met_ByteInIdleIsIgnored : Ready stateRA 5 ∧ stateRA.receiving = false := ⟨ready_stateRA, rfl⟩

/-- V-F9's bytes, one more than a frame. -/
def sixBytes : List (Int × Nat) := [(0x90, 11), (0, 12), (7, 13), (0x1F, 14), (0x10, 15), (0, 15)]

theorem test_met_TransactionShiftsOutReply :
    Ready stateRA 10 ∧ stateRA.receiving = false ∧ lvl 0 = stateRA.par.csAssertLevel ∧
    Ordered 10 (bytesIn sixBytes) ∧ Ordered 10 (bytesIn []) :=
  ⟨⟨rfl, by decide⟩, rfl, rfl, by simp [Ordered, bytesIn, sixBytes, Instr.time?], trivial⟩

theorem test_met_FiveByteTransferRunsItsCommand :
    Ready stateRA 10 ∧ stateRA.receiving = false ∧ lvl 0 = stateRA.par.csAssertLevel ∧
    lvl 1 ≠ stateRA.par.csAssertLevel ∧ (sixBytes.take 5).length = 5 ∧
    Ordered 10 (bytesIn (sixBytes.take 5) ++ [.csel 1 16]) :=
  ⟨⟨rfl, by decide⟩, rfl, rfl, by decide, rfl, by simp [Ordered, bytesIn, sixBytes, Instr.time?]⟩

theorem test_met_OtherLengthTransferIsDropped :
    Ready stateRA 10 ∧ stateRA.receiving = false ∧ lvl 0 = stateRA.par.csAssertLevel ∧
    lvl 1 ≠ stateRA.par.csAssertLevel ∧ sixBytes.length ≠ 5 ∧ Ordered 10 (bytesIn sixBytes ++ [.csel 1 16]) ∧
    (sixBytes.take 4).length ≠ 5 ∧ Ordered 10 (bytesIn (sixBytes.take 4) ++ [.csel 1 16]) ∧
    Ordered 10 (bytesIn [] ++ [.csel 1 10]) := by
  refine ⟨⟨rfl, by decide⟩, rfl, rfl, by decide, by decide, ?_, by decide, ?_, ?_⟩ <;>
    simp [Ordered, bytesIn, sixBytes, Instr.time?]

/-- The classes, and the bits where the clauses of the two status registers meet. -/
theorem test_met_RegReadFollowsClass :
    regClass stateRA.par 0x05 = .unimpl ∧ regClass stateRA.par 0x6C = .rw ∧ regClass stateRA.par 0x01 = .statusRo ∧
    regClass stateRA.par 0x6F = .statusRo ∧
    regRead { stateRA with fReset := true, fDrvErr := true, sg := true, stst := true } 0x01 = 0x00000003 ∧
    regRead { stateRA with fReset := true, fDrvErr := true, sg := true, stst := true } 0x6F = 0x81000000 := by
  decide +kernel

theorem test_met_WriteMergesUnderMask :
    regClass stateRA.par 0x10 = .rw ∧ (wmask stateRA.par 0x10).getLsbD 19 = true ∧
    (wmask stateRA.par 0x10).getLsbD 20 = false ∧ regClass stateRA.par 0x73 ≠ .rw ∧ (0x11 : Addr) ≠ 0x10 := by
  decide +kernel

/-- The WRITE committed by its CSEL, another WRITE between, and the READ as the frame command. -/
theorem test_met_WriteThenReadRoundTrips : ∃ s1 s2 s3 o,
    RegFileInv (recv 5 0xEC000100C3 0) ∧ regClass (recv 5 0xEC000100C3 0).par 0x6C = .rw ∧
    Performs (recv 5 0xEC000100C3 0) (.csel 1 20) (.write 0x6C 0x000100C3) ∧
    exec (.csel 1 20) (recv 5 0xEC000100C3 0) = .next s1 ∧ NoWriteTo 0x6C [.write 0x6D 1, .csel 0 21] s1 ∧
    runTrace [.write 0x6D 1, .csel 0 21] s1 = some (s2, o) ∧ Performs s2 (.read 0x6C 0) (.read 0x6C 0) ∧
    exec (.read 0x6C 0) s2 = .next s3 := by
  refine ⟨_, _, _, _, regFileInv_resetRegs rfl, by decide, .inr ⟨1, 20, rfl, rfl, by decide, rfl, by decide⟩, rfl,
    ?_, rfl, .inl rfl, rfl⟩
  refine ⟨by decide, ?_, ?_⟩
  · rintro d (h | ⟨v, t, h, -⟩)
    · cases h
    · cases h
  · intro s1 h
    cases h
    refine ⟨by decide, ?_, fun _ _ => trivial⟩
    rintro d (h | ⟨v, t, h, h1, -⟩)
    · cases h
    · cases h1

theorem test_met_ReadOnlyWriteLeavesRead : regClass stateRA.par 0x01 = .statusRo ∧
    regClass stateRA.par 0x73 = .statusRo := by decide

theorem test_met_SecondGstatReadShowsCleared :
    regClass stateRA.par 0x01 = .statusRo ∧ stateRA.par.gstatClearOnRead = true := by decide

/-- A counted step waiting to be handled, in a state that meets every invariant. -/
def stepWaits : State :=
  { upOn with inbox := [{ kind := .step 1, time := 10 }], snap := { position := 10, stall := false, enabled := true, axis := "X" } }

theorem test_met_StepKeeps : ∃ s', step stepWaits = .next s' ∧ RegFileInv stepWaits ∧ AxisInv stepWaits ∧
    TimerInv stepWaits ∧ OutputInv stepWaits ∧ FramerInv stepWaits := by
  refine ⟨_, rfl, regFileInv_resetRegs rfl, axisInv_axis rfl (by decide +kernel) (by decide) (by decide), ?_, ?_, ?_⟩
  · exact ⟨fun d h => (by cases h), fun h => (by cases h)⟩
  · exact ⟨rfl, by decide⟩
  · exact ⟨fun _ => ⟨rfl, rfl, rfl⟩, fun h => (by cases h), by decide⟩

theorem test_met_OnlyFramesAndResetWriteRegisters : ∃ s',
    exec (.csel 1 20) (recv 5 0xEC000100C3 0) = .next s' ∧ s'.regs ≠ (recv 5 0xEC000100C3 0).regs := by
  refine ⟨_, rfl, fun h => ?_⟩
  exact absurd (congrArg (fun r : Vector Word 128 => r[0x6C]) h) (by decide +kernel)

theorem test_met_FramerAndIntegratorAreIndependent : (∃ s', exec (.step 1 10) upOn = .next s') ∧
    (Instr.step 1 10).isFramers = false ∧ (Instr.step 1 10).row ≠ .reset ∧
    (∃ s', exec (.csel 0 10) upOn = .next s') ∧ (Instr.csel 0 10).isFramers = true :=
  ⟨⟨_, rfl⟩, rfl, by decide, ⟨_, rfl⟩, rfl⟩

/-- With end-stops at the upper bound, without end-stops, and on a falling edge in double-edge mode. -/
theorem test_met_CountedStepMovesAndReports :
    (AxisInv upOn ∧ upOn.axis = some (axisA 1000) ∧ upOn.lastT ≤ 3 ∧ StepEdge upOn (lvl 1) ∧
      upOn.enLvl = upOn.par.enActiveLevel) ∧
    AxisInv { upOn with axis := some (axisA 20000) } ∧ AxisInv { upOn with axis := some (axisC 2147483647) } ∧
    StepEdge (setReg 0x6C 0x20000000 { upOn with par := { testParams with dedgeHonored := true }, stepLvl := true })
      (lvl 0) :=
  ⟨⟨axisInv_upOn, rfl, by decide, .inl ⟨rfl, rfl⟩, rfl⟩,
    axisInv_axis rfl (by decide +kernel) (by decide) (by decide), axisInv_axisC,
    .inr ⟨rfl, by decide +kernel, by decide⟩⟩

theorem test_met_UncountedStepOnlyTracksLevel :
    (Ready stateRA 5 ∧ stateRA.enabled = false) ∧ Ready { upOn with stepLvl := true } 5 ∧
    ¬ StepEdge { upOn with stepLvl := true } (lvl 0) := by
  refine ⟨⟨ready_stateRA, rfl⟩, ⟨rfl, by decide⟩, ?_⟩
  rintro (⟨h, -⟩ | ⟨h, -⟩) <;> cases h

theorem test_met_DirLatchesLevel : Ready stateRA 1 := ⟨rfl, by decide⟩

theorem test_met_EnLatchesLevel : Ready { stateRA with ssDeadline := some 6000 } 7 := ⟨rfl, by decide⟩

theorem test_met_TimeoutSetsStandstill :
    armed.par.stallMode = .bit 0x00 7 ∧ Ready armed 6000 ∧ armed.ssDeadline = some 6000 ∧ Ready armed 6001 ∧ armed.ssDeadline ≠ some 6001 :=
  ⟨rfl, ⟨rfl, by decide⟩, rfl, ⟨rfl, by decide⟩, by decide⟩

theorem test_met_StepTrainObeysCountingLaw :
    AxisInv upOn ∧ upOn.axis = some (axisA 1000) ∧ upOn.enabled = true ∧ upOn.stepLvl = false ∧
    doubleEdge upOn = false ∧
    Ordered upOn.lastT (stepsIn [(1, 4), (7, 5), (0, 5), (1, 6)]) ∧
    qualifyingEdges false false [(1, 4), (7, 5), (0, 5), (1, 6)] = 2 ∧
    qualifyingEdges true false [(1, 4), (7, 5), (0, 5), (1, 6)] = 3 ∧
    AxisInv { upOn with axis := some (axisC 2147483647) } :=
  ⟨axisInv_upOn, rfl, rfl, rfl, rfl, by simp [Ordered, stepsIn, Instr.time?, upOn], by decide, by decide,
    axisInv_axisC⟩

theorem test_met_TimerFiresOncePerArming :
    (∃ r, runTrace [.timeout 6000, .dir 0 6000] armed = some r) ∧ ∀ i ∈ [Instr.dir 0 6000], i.row ≠ .step := by
  refine ⟨⟨_, rfl⟩, by decide⟩

theorem test_met_StandstillFlagLifetime :
    (∃ s', exec (.timeout 6000) armed = .next s' ∧ armed.stst = false ∧ s'.stst = true) ∧
    (∃ s', exec (.step 1 6000) { armed with stst := true } = .next s' ∧ s'.stst = false) ∧
    (∃ s', exec (.resetDiag [] 6000) { armed with stst := true } = .next s' ∧ s'.stst = false) :=
  ⟨⟨_, rfl, rfl, rfl⟩, ⟨_, rfl, rfl⟩, ⟨_, rfl, rfl⟩⟩

/-- Arming replaces an earlier deadline; TIMEOUT and RESET disarm. -/
theorem test_met_OnlyCountedStepsArmTimer :
    (∃ s', exec (.step 1 5500) armed = .next s' ∧ s'.ssDeadline = some 6500 ∧ StepEdge armed (lvl 1)) ∧
    (∃ s', exec (.timeout 6000) armed = .next s' ∧ s'.ssDeadline = none) ∧
    (∃ s', exec (.reset 6000) armed = .next s' ∧ s'.ssDeadline = none) :=
  ⟨⟨_, rfl, rfl, .inl ⟨rfl, rfl⟩⟩, ⟨_, rfl, rfl⟩, ⟨_, rfl, rfl⟩⟩

/-- A half-way value. -/
theorem test_met_PosToStepIsNearest :
    |(posToStep cfgA (1 / 200) : Rat) - 1 / 200 * (cfgA.stepsPerMM : Rat)| = 1 / 2 := by
  have h : posToStep cfgA (1 / 200) = 1 := test_round_half_away.1
  rw [h]
  norm_num [cfgA, abs_of_pos]

theorem test_met_SnapshotPositionIsExact : ∃ s' ax,
    AxisInv upOn ∧ (Instr.en 0 5).time? = some 5 ∧ exec (.en 0 5) upOn = .next s' ∧ s'.axis = some ax :=
  ⟨_, _, axisInv_upOn, rfl, rfl, rfl⟩

theorem test_met_ToggleStallForcesStallGuard : Ready stateRA 5 := ready_stateRA

theorem test_met_SetDiagRaisesDiag : Ready stateRA 5 ∧ Ready { stateRA with diag := true } 5 :=
  ⟨ready_stateRA, rfl, by decide⟩

theorem test_met_ResetDiagClearsIndications : Ready stateRA 5 ∧ Ready { stateRA with diag := true } 5 :=
  ⟨ready_stateRA, rfl, by decide⟩

theorem test_met_UnknownActionReturnsError : Ready stateRA 1 := ⟨rfl, by decide⟩

theorem test_met_Actions : ∃ s', (Instr.resetDiag ["x"] 5).isAction = true ∧
    exec (.resetDiag ["x"] 5) { stateRA with diag := true } = .next s' ∧ (Instr.resetDiag ["x"] 5).time? = some 5 :=
  ⟨_, rfl, rfl, rfl⟩

/-- The repeat at the same time, and later with other arguments and another unknown id. -/
theorem test_met_RepeatedActionIsIdempotent :
    (∃ s', exec (.setDiag [] 5) stateRA = .next s' ∧ (Instr.setDiag ["y"] 5).row = (Instr.setDiag [] 5).row ∧
      (Instr.setDiag ["y"] 5).time? = some 5 ∧ s'.lastT ≤ 5) ∧
    (∃ s', exec (.actionInvalid 7 [] 5) stateRA = .next s' ∧
      (Instr.actionInvalid 9 ["z"] 8).row = (Instr.actionInvalid 7 [] 5).row ∧ s'.lastT ≤ 8) :=
  ⟨⟨_, rfl, rfl, rfl, by decide⟩, ⟨_, rfl, rfl, by decide⟩⟩

theorem test_met_ConfigSetsUpAxis :
    stateR.lastT ≤ 0 ∧ stateR.configured = false ∧ configValid cfgA = true ∧ configValid cfgC = true ∧
    stateRA.configured = true ∧ configValid { cfgA with stepsPerMM := 0 } = false := by decide +kernel

/-- The largest travel bound and one more, the start positions at the ends of the 32-bit range and past them, and no finite
start. -/
theorem test_met_ValidRecordRange :
    configValid { cfgC with maxMM := 2147483647 } = true ∧ configValid { cfgC with maxMM := 2147483648 } = false ∧
    configValid { cfgC with startMM := .finite (-2147483648) } = true ∧
    configValid { cfgC with startMM := .finite 2147483647 } = true ∧
    configValid { cfgC with startMM := .finite 2147483648 } = false ∧
    configValid { cfgC with startMM := .nonFinite } = false ∧ configValid { cfgC with maxMM := -1 } = false ∧
    stateR.configured = false := by decide +kernel

theorem test_met_UnconfiguredEventsAreRefused :
    (Instr.toggleStall [] 0).time? = some 0 ∧ stateR.lastT ≤ 0 ∧ (Instr.toggleStall [] 0).needsConfig = true ∧
    stateR.configured = false ∧ (Instr.config cfgA 1).row = .config ∧ stateRA.configured = true ∧ stateRA.lastT ≤ 1 := by
  decide

/-- An event one cycle early, and one at the same time stamp. -/
theorem test_met_BackwardTimeIsRefused : (Instr.reset 0).time? = some 0 ∧ 0 < stateRA.lastT ∧
    ∃ s', exec (.reset 1) stateRA = .next s' := ⟨rfl, by decide, _, rfl⟩

theorem test_met_HandledEventRefreshesSnapshot : ∃ s',
    (Instr.step 1 10).time? = some 10 ∧ exec (.step 1 10) upOn = .next s' := ⟨_, rfl, rfl⟩

theorem test_met_OutputLevelsFollowEmissions : ∃ r,
    (∀ i ∈ [Instr.setDiag [] 5, .step 1 6], i.isFrame = false ∧ i.row ≠ .reset) ∧
    runTrace [.setDiag [] 5, .step 1 6] upOn = some r := ⟨_, by decide, rfl⟩

/-- Each port with an event that emits on it. -/
theorem test_met_PortsAreDrivenByTheirEvents : ∃ s1 s2 s3,
    exec (.byteIn 0 5) (recv 0 0 0x0D81000000) = .next s1 ∧ bytesOut s1.out = [0x0D] ∧
    exec (.setDiag [] 5) stateRA = .next s2 ∧ diagLevels s2.out ≠ [] ∧
    exec (.step 1 5) upOn = .next s3 ∧ positionValues s3.out ≠ [] ∧ minLevels s3.out ≠ [] :=
  ⟨_, _, _, rfl, by decide, rfl, by decide, rfl, by decide +kernel, by decide +kernel⟩

theorem test_met_ParametersAndResetFlagWriters :
    (∃ s', exec (.read 0x01 0) stateRA = .next s' ∧ stateRA.fReset = true ∧ s'.fReset = false) ∧
    (∃ s', exec (.csel 1 20) (recv 5 0x0100000000 0) = .next s' ∧ s'.fReset = false) ∧
    (∃ s', exec (.reset 5) { stateRA with fReset := false } = .next s' ∧ s'.fReset = true) :=
  ⟨⟨_, rfl, rfl, by decide +kernel⟩, ⟨_, rfl, by decide +kernel⟩, ⟨_, rfl, rfl⟩⟩

/-- The clamped step sets `sg`, and one that moves off the bound clears it. -/
theorem test_met_StallGuardWriters :
    (∃ s', exec (.toggleStall [] 5) stateRA = .next s' ∧ stateRA.sg = false ∧ s'.sg = true) ∧
    (∃ s', exec (.step 1 5) atBound = .next s' ∧ s'.sg = true ∧ wasClamped (axisA 20000) 20001 = true) ∧
    (∃ s', exec (.step 1 5) { atBound with sg := true, dirLvl := false } = .next s' ∧ s'.sg = false ∧
      wasClamped (axisA 20000) 19999 = false) :=
  ⟨⟨_, rfl, rfl, rfl⟩, ⟨_, rfl, by decide +kernel, by decide⟩, ⟨_, rfl, by decide +kernel, by decide⟩⟩

/-- A state with the default parameters, and an address of each of the three kinds. -/
theorem test_met_DefaultParametersAreTheSpecs :
    State.reset.par = defaultParams ∧ regClass defaultParams 0x73 = .statusRo ∧
    regClass defaultParams 0x72 = .rw ∧ regClass defaultParams 0x74 = .unimpl ∧
    (0x74 : Addr) ∉ tableWritable.map Prod.fst ∧ (0x74 : Addr) ∉ tableReadOnly ∧
    tableWritable.length + tableReadOnly.length = 31 :=
  ⟨rfl, by decide, by decide, by decide, by decide, by decide, rfl⟩

end Sys2Proof.Tests
end

section
/-! The statements on the scope of the model: what one step runs (00_scope.md R14, R16), and the parameters the machine
starts with (R9, 10_state.md R31). -/

namespace Sys2Proof.Machine
open Sys2Proof

/-! ### The step -/

/-- With an event delivered, a step runs the instruction that the oldest one decodes to, from the state without it. -/
theorem step_of_inbox_cons {s : State} {e : Event} {rest : List Event} (h : s.inbox = e :: rest) :
    step s = exec (decodeEvent s.par.actionId e) { s with inbox := rest } := by
  simp only [step, takeEvent, h]

/-- With nothing delivered, a step only clears the outputs of the step before. -/
theorem step_of_inbox_nil {s : State} (h : s.inbox = []) : step s = .next (clearOut s) := by
  simp only [step, takeEvent, h]

/-- Settles O1: the inbox holds an oldest event, which the step takes, or it is empty. -/
theorem stepRunsDecodedEvent : Obligations.StepRunsDecodedEvent :=
  fun _ => ⟨fun _ _ h => step_of_inbox_cons h, step_of_inbox_nil⟩

/-! ### The parameters of an address from its row -/

/-- Where no two rows have one address, the row found for a row's address is that row. -/
theorem findRow_of_mem {rows : List RegRow} (hn : (rows.map RegRow.addr).Nodup) {r : RegRow} (hr : r ∈ rows) :
    findRow rows r.addr = some r := by
  obtain ⟨r', hf⟩ : ∃ r', findRow rows r.addr = some r' :=
    Option.isSome_iff_exists.mp (List.find?_isSome.mpr ⟨r, hr, beq_self_eq_true r.addr⟩)
  obtain ⟨hr', haddr⟩ := findRow_some hf
  rw [hf, List.inj_on_of_nodup_map hn hr' hr haddr]

theorem regClass_of_findRow_some {p : Params} {a : Addr} {r : RegRow} (h : findRow p.regMap a = some r) :
    regClass p a = r.cls := by
  simp only [regClass, h]

theorem wmask_of_findRow_some {p : Params} {a : Addr} {r : RegRow} (h : findRow p.regMap a = some r) :
    wmask p a = r.wmask := by
  simp only [wmask, h]

theorem regClass_of_findRow_none {p : Params} {a : Addr} (h : findRow p.regMap a = none) : regClass p a = .unimpl := by
  simp only [regClass, h]

theorem wmask_of_findRow_none {p : Params} {a : Addr} (h : findRow p.regMap a = none) : wmask p a = 0 := by
  simp only [wmask, h]

/-- A map whose rows all reset to 0 gives every address the reset value 0, with a row or without. -/
theorem resetValue_eq_zero {p : Params} (h : ∀ r ∈ p.regMap, r.resetValue = 0) (a : Addr) : resetValue p a = 0 := by
  unfold resetValue
  split
  next r hf => exact h r (findRow_some hf).1
  next => rfl

/-! ### The default map and the table of 10_state.md R31 -/

theorem defaultRegMap_addr_nodup : (defaultRegMap.map RegRow.addr).Nodup := by decide

/-- The writable rows of the default map are those of the table, in order, with their write masks. -/
theorem filter_rw_defaultRegMap :
    defaultRegMap.filter (fun r => r.cls == .rw) = tableWritable.map fun r => rwRow r.1 r.2 := rfl

/-- The status rows of the default map are those of the table, in order. -/
theorem filter_statusRo_defaultRegMap :
    defaultRegMap.filter (fun r => r.cls == .statusRo) = tableReadOnly.map roRow := rfl

theorem rwRow_mem_defaultRegMap {r : Addr × Word} (h : r ∈ tableWritable) : rwRow r.1 r.2 ∈ defaultRegMap :=
  List.mem_of_mem_filter (filter_rw_defaultRegMap ▸ List.mem_map_of_mem h)

theorem roRow_mem_defaultRegMap {a : Addr} (h : a ∈ tableReadOnly) : roRow a ∈ defaultRegMap :=
  List.mem_of_mem_filter (filter_statusRo_defaultRegMap ▸ List.mem_map_of_mem h)

/-- The default map has no row beyond those of the table. -/
theorem addr_mem_table : ∀ r ∈ defaultRegMap, r.addr ∈ tableWritable.map Prod.fst ∨ r.addr ∈ tableReadOnly := by decide

theorem defaultRegMap_resetValue : ∀ r ∈ defaultRegMap, r.resetValue = 0 := by decide

/-- Each row of the default map is the one its address is looked up in. -/
theorem findRow_defaultParams {r : RegRow} (h : r ∈ defaultRegMap) : findRow defaultParams.regMap r.addr = some r :=
  findRow_of_mem defaultRegMap_addr_nodup h

/-- A writable address of the table has its class and its write mask (R31). -/
theorem defaultParams_writable (r : Addr × Word) (h : r ∈ tableWritable) :
    regClass defaultParams r.1 = .rw ∧ wmask defaultParams r.1 = r.2 :=
  have hf := findRow_defaultParams (rwRow_mem_defaultRegMap h)
  ⟨regClass_of_findRow_some hf, wmask_of_findRow_some hf⟩

/-- A read-only address of the table has its class, and no bit can be written (R31). -/
theorem defaultParams_readOnly (a : Addr) (h : a ∈ tableReadOnly) :
    regClass defaultParams a = .statusRo ∧ wmask defaultParams a = 0 :=
  have hf := findRow_defaultParams (roRow_mem_defaultRegMap h)
  ⟨regClass_of_findRow_some hf, wmask_of_findRow_some hf⟩

/-- An address that the table does not list is UNIMPL with write mask 0 (R31). -/
theorem defaultParams_unlisted (a : Addr) (hw : a ∉ tableWritable.map Prod.fst) (hr : a ∉ tableReadOnly) :
    regClass defaultParams a = .unimpl ∧ wmask defaultParams a = 0 := by
  have hne : ∀ r ∈ defaultRegMap, r.addr ≠ a := by
    rintro r hmem rfl
    exact (addr_mem_table r hmem).elim hw hr
  have hf : findRow defaultParams.regMap a = none := findRow_none hne
  exact ⟨regClass_of_findRow_none hf, wmask_of_findRow_none hf⟩

/-- The default STALL_MODE is GCONF bit 7 (R35). -/
theorem stallModeOn_defaultParams (s : State) (h : s.par = defaultParams) :
    stallModeOn s = (s.reg 0x00).getLsbD 7 := by
  rw [stallModeOn, h]
  rfl

/-- Settles O60: the levels, switches and action ids stand in the record; T_SS is one more than a natural number; each
address of the register map is looked up in its row of the table, or has none. -/
theorem defaultParametersAreTheSpecs : Obligations.DefaultParametersAreTheSpecs :=
  ⟨rfl, rfl, rfl, rfl, rfl, rfl, rfl, Nat.le_add_left 1 Config.windowBeyondOne, stallModeOn_defaultParams,
    defaultParams_writable, defaultParams_readOnly, defaultParams_unlisted,
    resetValue_eq_zero defaultRegMap_resetValue⟩

end Sys2Proof.Machine
end

section
/-! The statements on the state of the block (10_state.md): which instruction writes which status flag (R28), and when the
visualization snapshot is refreshed (R45). -/

namespace Sys2Proof.Machine
open Sys2Proof

/-! ### The stall and standstill flags -/

/-- What an instruction can have done to `sg` and `stst`: the writers of 10_state.md R28, each with the values it writes. -/
inductive IndicationsWritten (s : State) (i : Instr) (s' : State) : Prop where
  | unchanged (hstst : s'.stst = s.stst) (hsg : s'.sg = s.sg)
  | timeout (t : Nat) (hi : i = .timeout t) (hd : s.ssDeadline = some t) (hstst : s'.stst = true) (hsg : s'.sg = s.sg)
  | toggleStall (hi : i.row = .toggleStall) (hstst : s'.stst = s.stst) (hsg : s'.sg = true)
  | cleared (hi : i.row = .resetDiag ∨ i.row = .reset) (hstst : s'.stst = false) (hsg : s'.sg = false)
  | counted (ax : AxisState) (hi : CountedStep s i) (ha : s.axis = some ax) (hstst : s'.stst = false)
      (hsg : s'.sg = (s.par.diagOnClamp && wasClamped ax (exactCount s.par ax s.dirLvl)))

/-- Every instruction that answers writes the two flags in one of those ways; a STEP does so by being counted or only
tracked (42_step_integrator.md R160). -/
theorem ran_indicationsWritten {i : Instr} {s s' : State} (h : Ran s i s') : IndicationsWritten s i s' := by
  cases h with
  | timeout t ax ha hle hd => exact .timeout t rfl hd rfl rfl
  | toggleStall g t ax ha hle => exact .toggleStall rfl rfl rfl
  | resetDiag g t ax ha hle => exact .cleared (.inl rfl) rfl rfl
  | reset t hle => exact .cleared (.inr rfl) rfl rfl
  | step v t ax ha hle =>
    obtain ⟨hedge, hen, hs⟩ | ⟨-, hs⟩ := stepArrives_cases (lvl v) t ax (clearOut s)
    · exact .counted ax ⟨v, t, rfl, hedge, hen⟩ ha (by simp [hs]) (by simp [hs])
    · exact .unchanged (by simp [hs]) (by simp [hs])
  | _ => exact .unchanged (by simp) (by simp)

/-- Settles O37: of the writers of `stst`, only TIMEOUT sets it, and the others clear it. -/
theorem standstillFlagLifetime : Obligations.StandstillFlagLifetime := by
  intro i s s' h
  cases ran_indicationsWritten (exec_ran h) with
  | unchanged hstst hsg => simp +contextual [hstst]
  | timeout t hi hd hstst hsg => simp [hstst, hi, hd]
  | toggleStall hi hstst hsg => simp +contextual [hstst]
  | cleared hi hstst hsg => simp [hstst, hi]
  | counted ax hi ha hstst hsg => simp [hstst, hi]

/-- Settles O59: ToggleStall sets `sg`, ResetDiag and RESET clear it, and a counted step gives it the clamp bit of
42_step_integrator.md R170. -/
theorem stallGuardWriters : Obligations.StallGuardWriters := by
  intro i s s' h
  cases ran_indicationsWritten (exec_ran h) with
  | unchanged hstst hsg => simp +contextual [hsg]
  | timeout t hi hd hstst hsg => simp +contextual [hsg]
  | toggleStall hi hstst hsg => simp [hsg, hi]
  | cleared hi hstst hsg => exact ⟨by simp [hsg], fun _ _ => hi.imp_right .inl⟩
  | counted ax hi ha hstst hsg =>
    refine ⟨fun _ hset => .inr ?_, fun _ hclear => .inr (.inr ⟨hi, ax, ha, hsg ▸ hclear⟩)⟩
    obtain ⟨hon, hclamped⟩ := Bool.and_eq_true_iff.mp (hsg ▸ hset)
    exact ⟨hi, hon, ax, ha, hclamped⟩

/-! ### The snapshot -/

/-- Every handled event records its time stamp and the snapshot of its post-event state; RESET writes them itself
(70_reset_and_hazards.md R250), every other event by `finish`. -/
theorem ran_recorded {i : Instr} {s s' : State} {t : Nat} (ht : i.time? = some t) (h : Ran s i s') : Recorded t s' := by
  cases h <;> cases ht <;> exact ⟨rfl, rfl⟩

/-- Settles O53: the reader sees the recorded snapshot, whose fields are those of the post-event state and of parameters
that no instruction changes. -/
theorem handledEventRefreshesSnapshot : Obligations.HandledEventRefreshesSnapshot := by
  intro i s s' t ht h
  have hran := exec_ran h
  obtain ⟨-, hsnap⟩ := ran_recorded ht hran
  obtain ⟨hpar, -⟩ := ran_own hran
  have hview : s'.view = s'.snapshot := hsnap
  rw [hview, ← hpar]
  exact ⟨rfl, rfl, beq_iff_eq, rfl⟩

/-! ### The parameters, the reset flag and the driver-error flag -/

/-- READ keeps the reset flag, or it reads GSTAT and clears it (41_register_file.md R134). -/
theorem readFrame_fReset_cases (a : Addr) (s : State) :
    (readFrame a s).fReset = s.fReset ∨
    s.par.gstatClearOnRead = true ∧ a = 0x01 ∧ (readFrame a s).fReset = false := by
  simp only [readFrame_fields]
  split
  next hc => exact .inr ⟨hc.2, hc.1, rfl⟩
  next => exact .inl rfl

/-- A commit keeps the reset flag, or its frame decodes to a READ of GSTAT that clears it (R134). -/
theorem commit_fReset_cases (f : Frame) (s : State) :
    (commit f s).fReset = s.fReset ∨
    s.par.gstatClearOnRead = true ∧ (∃ x, decodeFrame f = .read 0x01 x) ∧ (commit f s).fReset = false := by
  unfold commit decodeFrame
  split
  next => exact .inl (by simp)
  next =>
    exact (readFrame_fReset_cases (frameAddr f) s).imp_right fun ⟨hg, haddr, hclear⟩ =>
      ⟨hg, ⟨frameData f, haddr ▸ rfl⟩, hclear⟩

/-- A chip-select level keeps the reset flag, or it commits five bytes (40_spi_framer.md R104). -/
theorem chipSelect_fReset_cases (l : Level) (s : State) :
    (chipSelect l s).fReset = s.fReset ∨
    s.receiving = true ∧ l ≠ s.par.csAssertLevel ∧ s.nb = 5 ∧ (chipSelect l s).fReset = (commit s.acc s).fReset := by
  unfold chipSelect
  split
  next => exact .inl rfl
  next hedge =>
    split
    next => exact .inl rfl
    next hoff =>
      unfold deassertEdge
      split
      next hn =>
        have hlvl : s.csLvl = s.par.csAssertLevel :=
          Bool.not_inj ((Bool.eq_not.mpr hedge).symm.trans (Bool.eq_not.mpr hoff))
        exact .inr ⟨beq_iff_eq.mpr hlvl, hoff, hn, rfl⟩
      next => exact .inl rfl

/-- What an instruction can have done to the reset flag: the writers of 10_state.md R28. -/
theorem ran_fReset_cases {i : Instr} {s s' : State} (h : Ran s i s') :
    s'.fReset = s.fReset ∨ (i.row = .reset ∧ s'.fReset = true) ∨
    (s.par.gstatClearOnRead = true ∧ (∃ x, Performs s i (.read 0x01 x)) ∧ s'.fReset = false) := by
  cases h with
  | read a x =>
    exact (readFrame_fReset_cases a s).imp_right fun ⟨hg, haddr, hclear⟩ =>
      .inr ⟨hg, ⟨x, .inl (haddr ▸ rfl)⟩, hclear⟩
  | csel v t ax ha hle =>
    obtain hkeep | ⟨hr, hv, hn, hc⟩ := chipSelect_fReset_cases (lvl v) (clearOut s)
    · exact .inl hkeep
    · obtain hkeep | ⟨hg, ⟨x, hx⟩, hclear⟩ := commit_fReset_cases s.acc (clearOut s)
      · exact .inl (hc.trans hkeep)
      · exact .inr (.inr ⟨hg, ⟨x, .inr ⟨v, t, rfl, hr, hv, hn, hx⟩⟩, hc.trans hclear⟩)
  | reset t hle => exact .inr (.inl ⟨rfl, rfl⟩)
  | _ => exact .inl (by simp)

/-- Only RESET writes the driver-error flag (R28). -/
theorem ran_fDrvErr {i : Instr} {s s' : State} (h : Ran s i s') (hi : i.row ≠ .reset) : s'.fDrvErr = s.fDrvErr := by
  cases h with
  | reset t hle => exact absurd rfl hi
  | _ => simp

/-- Settles O58: the parameters stay and with them every address's class, and the two flags have only the writers that
`ran_fDrvErr` and `ran_fReset_cases` name. -/
theorem parametersAndResetFlagWriters : Obligations.ParametersAndResetFlagWriters := by
  intro i s s' h
  have hran := exec_ran h
  have hown := ran_own hran
  refine ⟨hown, fun a => by rw [hown.1], ran_fDrvErr hran, ?_⟩
  obtain hkeep | ⟨hi, hset⟩ | ⟨hg, hp, hclear⟩ := ran_fReset_cases hran
  · simp +contextual [hkeep]
  · simp [hset, hi]
  · exact ⟨by simp [hclear], fun _ _ => ⟨hg, hp⟩⟩

end Sys2Proof.Machine
end

section
/-! The statements on the memory of the block (20_memory.md): a transaction sends the reply latched before it, first byte
first (R63), and five bytes of one are the frame of the command it runs (R62). -/

namespace Sys2Proof.Machine
open Sys2Proof

/-! ### A transaction up to its last byte -/

/-- Whether the framer is Receiving depends on the chip-select level and the parameters alone (40_spi_framer.md R100). -/
theorem receiving_congr {s s' : State} (hcs : s'.csLvl = s.csLvl) (hp : s'.par = s.par) : s'.receiving = s.receiving := by
  rw [State.receiving, State.receiving, hcs, hp]

/-- The assertion edge leaves the framer Receiving (R102). -/
@[simp] theorem assertEdge_receiving (s : State) : (assertEdge s).receiving = true := beq_self_eq_true _

/-- A transaction before its de-assertion is a run of bytes from the state that the assertion edge leaves, whose shift
register holds the latched reply (R102). Whatever is ordered after the bytes is ordered after that state. -/
theorem assert_bytes_run {s : State} {von : Int} {t0 : Nat} {bs : List (Int × Nat)} {tail : List Instr}
    (hready : Ready s t0) (hidle : s.receiving = false) (hon : lvl von = s.par.csAssertLevel)
    (hord : Ordered t0 (bytesIn bs ++ tail)) :
    ∃ s1, runTrace (.csel von t0 :: bytesIn bs) s =
        some (s1, (List.range bs.length).map fun k => .spiByteOut (frameByte s.reply (k + 1))) ∧
      BytesRan bs (finish t0 (assertEdge (clearOut s))) s1 ∧ s1.receiving = true ∧ Ordered s1.lastT tail := by
  obtain ⟨hconf, hle⟩ := hready
  obtain ⟨ax, ha⟩ := Option.isSome_iff_exists.mp hconf
  have hassert := execCsel_assert ha hidle hon hle
  have hopen : (finish t0 (assertEdge (clearOut s))).receiving = true := assertEdge_receiving _
  obtain ⟨s1, hrun, hbytes, htail⟩ := bytes_run bs (finish t0 (assertEdge (clearOut s))) ax ha hopen
    (ordered_append_left _ _ hord) tail hord
  obtain ⟨-, -, -, hpar, -⟩ := hbytes.other
  exact ⟨s1, runTrace_cons_of hassert hrun, hbytes, (receiving_congr hbytes.csLvl hpar).trans hopen, htail⟩

/-- Settles O16: a run of bytes sends the shift register, which the assertion edge has loaded with the reply, and touches
neither the latch nor chip-select. -/
theorem transactionShiftsOutReply : Obligations.TransactionShiftsOutReply := by
  intro s von t0 bs hready hidle hon hord
  obtain ⟨s1, hrun, hbytes, hrecv, -⟩ :=
    assert_bytes_run (tail := []) hready hidle hon (by rwa [List.append_nil])
  have hnb : s1.nb.val = min (0 + bs.length) 6 := hbytes.nb
  exact ⟨s1, hrun, hbytes.reply, hrecv, by rw [hnb, Nat.zero_add]⟩

/-! ### The command of five bytes -/

/-- Five bytes decode to the command of the frame that they accumulate to, whatever stood in the accumulator (R62, R106). -/
theorem decodeBytes_of_length_five (a : Frame) {l : List Byte} (hl : l.length = 5) :
    decodeBytes l = .ok (decodeFrame (l.foldl shiftIn a)) := by
  match l, hl with
  | [b1, b2, b3, b4, b5], _ => rw [acc_five]; rfl

/-- After a commit the flags agree where what the commit reads agreed before it (R108). -/
theorem sameFlags_commit {f : Frame} {s s' : State} (hp : s'.par = s.par) (hr : s'.regs = s.regs)
    (hl : s'.reply = s.reply) (hf : SameFlags s s') : SameFlags (commit f s) (commit f s') := by
  obtain ⟨-, -, hreset⟩ := commit_congr (f := f) hp hr hl hf
  obtain ⟨-, hdrv, hsg, hstst, hovr⟩ := hf
  exact ⟨hreset, by simp [hdrv], by simp [hsg], by simp [hstst], by simp [hovr]⟩

/-- The de-assertion edge sends nothing (R104). -/
@[simp] theorem deassertEdge_out (s : State) : (deassertEdge s).out = s.out := by
  unfold deassertEdge
  split <;> simp

/-- The de-assertion edge after five bytes has the effect of the accumulated frame's command, run from any state `s` that
differs from the present one in the framer's own fields only (R104, R108). -/
theorem deassertEdge_five {s s1 : State} (hnb : s1.nb = 5) (hreply : s1.reply = s.reply) (hregs : s1.regs = s.regs)
    (hother : SameOutsideFramer s s1) :
    (deassertEdge s1).reply = (commit s1.acc s).reply ∧ (deassertEdge s1).regs = (commit s1.acc s).regs ∧
    SameFlags (commit s1.acc s) (deassertEdge s1) ∧ SameIntegrator s (deassertEdge s1) ∧
    SameOutputs s (deassertEdge s1) ∧ (deassertEdge s1).receiving = false := by
  obtain ⟨hflags, hint, houts, hpar, -⟩ := hother
  have hedge : deassertEdge s1 = closeTransaction (commit s1.acc s1) := by rw [deassertEdge, if_pos hnb]
  obtain ⟨hcreply, hcregs, -⟩ := commit_congr (f := s1.acc) hpar hregs hreply hflags
  rw [hedge]
  refine ⟨hcreply, hcregs, sameFlags_commit hpar hregs hreply hflags, ?_, ?_, ?_⟩
  · simpa [SameIntegrator] using hint
  · simpa [SameOutputs] using houts
  · simp [State.receiving]

/-- Settles O17: the five bytes accumulate to the frame they decode to, nothing that its commit reads has changed since
before the transaction, and the bytes out are those of O16. -/
theorem fiveByteTransferRunsItsCommand : Obligations.FiveByteTransferRunsItsCommand := by
  intro s von voff t0 t1 bs hready hidle hon hoff hlen hord
  obtain ⟨s1, hrun, hbytes, hrecv, hle, -⟩ := assert_bytes_run hready hidle hon hord
  obtain ⟨-, ⟨haxis, -⟩, -, hpar, -⟩ : SameOutsideFramer s s1 := hbytes.other
  obtain ⟨ax, ha⟩ := Option.isSome_iff_exists.mp hready.1
  have hdeassert := execCsel_deassert (haxis.trans ha) hrecv (hpar ▸ hoff) hle
  have hnb : s1.nb = 5 := by
    have hval : s1.nb.val = min (0 + bs.length) 6 := hbytes.nb
    exact Fin.ext (by rw [hval, hlen]; rfl)
  have hacc : s1.acc = (bs.map fun b => trunc8 b.1).foldl shiftIn 0 := hbytes.acc.trans List.foldl_map.symm
  have heffect := deassertEdge_five (s := s) (s1 := clearOut s1) hnb hbytes.reply hbytes.regs hbytes.other
  refine ⟨decodeFrame s1.acc, commit s1.acc s, _, _, ?_, exec_decodeFrame _ _,
    runTrace_append_of hrun (runTrace_cons_of hdeassert rfl), ?_, heffect⟩
  · rw [hacc]
    exact decodeBytes_of_length_five 0 (by rw [List.length_map, hlen])
  · rw [finish_out, deassertEdge_out, hlen]
    rfl

end Sys2Proof.Machine
end

section
/-! The statements on the encoding (30_encoding.md): decoding and encoding invert each other (R80 to R88), what the bytes of
a frame stand for (R82, R83), and the upper status bits that stay 0 (R87). -/

namespace Sys2Proof

/-! ### Frames -/

/-- A frame made of its fields decodes to the command its RW bit selects (R82). -/
@[simp] theorem decodeFrame_frameOf (rw : Bool) (a : Addr) (d : Word) :
    decodeFrame (frameOf rw a d) = if rw then .write a d else .read a d := by
  simp only [decodeFrame, frameRw_frameOf, frameAddr_frameOf, frameData_frameOf]

/-- No bit of a frame is lost in the command it decodes to (R84). -/
theorem encode_decodeFrame (ids : ActionIds) (f : Frame) : encode ids (decodeFrame f) = .frame f := by
  calc encode ids (decodeFrame f)
    _ = .frame (frameOf (frameRw f) (frameAddr f) (frameData f)) := by
      unfold decodeFrame
      cases frameRw f <;> rfl
    _ = .frame f := by rw [frameOf_fields]

/-- No frame is illegal (R84, R85). -/
theorem decodeFrame_wf (ids : ActionIds) (f : Frame) : (decodeFrame f).wf ids = true := by
  unfold decodeFrame
  split <;> rfl

/-! ### ACTION events -/

/-- ACTION_ID is injective: its three ids differ (00_scope.md R9). -/
theorem actionIds_wf_iff {ids : ActionIds} : ids.wf = true ↔
    ids.toggleStall ≠ ids.setDiag ∧ ids.toggleStall ≠ ids.resetDiag ∧ ids.setDiag ≠ ids.resetDiag := by
  simp [ActionIds.wf, ActionIds.range, and_assoc]

theorem actionInvalid_wf_iff {ids : ActionIds} {id : Int} {args : List String} {t : Nat} :
    (Instr.actionInvalid id args t).wf ids = true ↔
      id ≠ ids.toggleStall ∧ id ≠ ids.setDiag ∧ id ≠ ids.resetDiag := by
  simp [Instr.wf, ActionIds.range]

/-- What row an ACTION event belongs to, with the id that puts it there (43_actions_config.md R200, R201). -/
theorem decodeAction_cases (ids : ActionIds) (id : Int) (args : List String) (t : Nat) :
    (id = ids.toggleStall ∧ decodeAction ids id args t = .toggleStall args t) ∨
    (id = ids.setDiag ∧ decodeAction ids id args t = .setDiag args t) ∨
    (id = ids.resetDiag ∧ decodeAction ids id args t = .resetDiag args t) ∨
    ((id ≠ ids.toggleStall ∧ id ≠ ids.setDiag ∧ id ≠ ids.resetDiag) ∧
      decodeAction ids id args t = .actionInvalid id args t) := by
  unfold decodeAction
  split
  next h => exact .inl ⟨h, rfl⟩
  next h1 =>
    split
    next h => exact .inr (.inl ⟨h, rfl⟩)
    next h2 =>
      split
      next h => exact .inr (.inr (.inl ⟨h, rfl⟩))
      next h3 => exact .inr (.inr (.inr ⟨⟨h1, h2, h3⟩, rfl⟩))

/-- An ACTION event is the code of the row it decodes to, whether or not ACTION_ID is injective. -/
theorem encode_decodeAction (ids : ActionIds) (id : Int) (args : List String) (t : Nat) :
    encode ids (decodeAction ids id args t) = .event { kind := .action id args, time := t } := by
  obtain ⟨rfl, h⟩ | ⟨rfl, h⟩ | ⟨rfl, h⟩ | ⟨-, h⟩ := decodeAction_cases ids id args t <;> rw [h] <;> rfl

/-- Only an id outside the range of ACTION_ID decodes to ACTION_INVALID (R201). -/
theorem decodeAction_wf (ids : ActionIds) (id : Int) (args : List String) (t : Nat) :
    (decodeAction ids id args t).wf ids = true := by
  obtain ⟨-, h⟩ | ⟨-, h⟩ | ⟨-, h⟩ | ⟨hid, h⟩ := decodeAction_cases ids id args t <;> rw [h]
  case inr.inr.inr => exact actionInvalid_wf_iff.mpr hid
  all_goals rfl

/-! ### Both round trips -/

/-- Settles O6: a frame command is read back field by field; the ids of an injective ACTION_ID are told apart, and an id
outside its range is none of them; the other events keep their kind. -/
theorem decodeInvertsEncode : Obligations.DecodeInvertsEncode := by
  intro ids i hids hi
  obtain ⟨hts, htr, hsr⟩ := actionIds_wf_iff.mp hids
  cases i with
  | read a d => exact decodeFrame_frameOf false a d
  | write a d => exact decodeFrame_frameOf true a d
  | toggleStall args t => exact if_pos rfl
  | setDiag args t => simp [encode, decode, decodeEvent, decodeAction, hts.symm]
  | resetDiag args t => simp [encode, decode, decodeEvent, decodeAction, htr.symm, hsr.symm]
  | actionInvalid id args t =>
    obtain ⟨hnt, hns, hnr⟩ := actionInvalid_wf_iff.mp hi
    simp [encode, decode, decodeEvent, decodeAction, hnt, hns, hnr]
  | _ => rfl

/-- An event is the code of the instruction it decodes to (R88). -/
theorem encode_decodeEvent (ids : ActionIds) (e : Event) : encode ids (decodeEvent ids e) = .event e := by
  obtain ⟨kind, t⟩ := e
  cases kind with
  | action id args => exact encode_decodeAction ids id args t
  | _ => rfl

theorem decodeEvent_wf (ids : ActionIds) (e : Event) : (decodeEvent ids e).wf ids = true := by
  obtain ⟨kind, t⟩ := e
  cases kind with
  | action id args => exact decodeAction_wf ids id args t
  | _ => rfl

/-- Settles O7: a frame is made of the fields that its command keeps, and an event keeps its kind, values and time stamp. -/
theorem encodeInvertsDecode : Obligations.EncodeInvertsDecode := by
  intro ids c
  cases c with
  | frame f => exact ⟨encode_decodeFrame ids f, decodeFrame_wf ids f⟩
  | event e => exact ⟨encode_decodeEvent ids e, decodeEvent_wf ids e⟩

/-! ### The bytes of a frame -/

/-- A first byte of RW and ADDR and four bytes of DATA are the frame of these fields (R80, R81). -/
theorem frameOfBytes_rw_addr (rw : Bool) (a : Addr) (b2 b3 b4 b5 : Byte) :
    frameOfBytes (BitVec.ofBool rw ++ a) b2 b3 b4 b5 = frameOf rw a (b2 ++ b3 ++ b4 ++ b5) := by
  simp only [frameOfBytes, frameOf, BitVec.append_assoc, BitVec.cast_eq]

/-- Five bytes whose first is RW and ADDR decode to the command that RW selects (R82, R86). -/
theorem decodeBytes_rw_addr (rw : Bool) (a : Addr) (b2 b3 b4 b5 : Byte) :
    decodeBytes [BitVec.ofBool rw ++ a, b2, b3, b4, b5] =
      .ok (if rw then .write a (b2 ++ b3 ++ b4 ++ b5) else .read a (b2 ++ b3 ++ b4 ++ b5)) := by
  rw [← decodeFrame_frameOf, ← frameOfBytes_rw_addr]
  rfl

/-- The first byte of a WRITE (R82). -/
theorem writeByte_eq (a : Addr) : 0x80 ||| a.setWidth 8 = BitVec.ofBool true ++ a := by
  revert a; decide

/-- The first byte of a READ (R82). -/
theorem readByte_eq (a : Addr) : a.setWidth 8 = BitVec.ofBool false ++ a := by
  revert a; decide

/-- Settles O8: either first byte is its RW bit followed by the address. -/
theorem firstByteSelectsCommand : Obligations.FirstByteSelectsCommand := by
  intro a b2 b3 b4 b5
  rw [writeByte_eq, readByte_eq]
  exact ⟨decodeBytes_rw_addr true a b2 b3 b4 b5, decodeBytes_rw_addr false a b2 b3 b4 b5⟩

/-- Settles O9: the frames are cases of O8; four bytes are no frame, and the two ids are looked up in the defaults. -/
theorem writtenOutWordsDecode : Obligations.WrittenOutWordsDecode :=
  ⟨(firstByteSelectsCommand 0x6C 0x00 0x01 0x00 0xC3).1, (firstByteSelectsCommand 0x6F 0x00 0x00 0x00 0x00).2,
    (firstByteSelectsCommand 0x10 0x00 0x07 0x1F 0x10).1, rfl, rfl, rfl⟩

end Sys2Proof

namespace Sys2Proof.Machine
open Sys2Proof

/-! ### What a READ does with its DATA field -/

/-- READ is the READ of its address alone (R83, 40_spi_framer.md R111). -/
theorem exec_read (a : Addr) (x : Word) (s : State) : exec (.read a x) s = .next (readFrame a s) := rfl

/-- Settles O20: both are the READ of the address. -/
theorem readIgnoresData : Obligations.ReadIgnoresData := by
  intro s a x y
  rw [exec_read, exec_read]

/-! ### The framer's invariant -/

theorem FramerInv.reply_upper {s : State} (h : FramerInv s) : s.reply.extractLsb' 36 4 = 0 := h.2.2

/-- The invariant is kept where chip-select and the transaction stay, no configuration is lost, and the latched status has
its upper bits 0. -/
theorem FramerInv.of_transaction_eq {s s' : State} (hinv : FramerInv s) (hrecv : s'.receiving = s.receiving)
    (htrans : s'.acc = s.acc ∧ s'.nb = s.nb ∧ s'.shout = s.shout) (hconf : s.configured = true → s'.configured = true)
    (hreply : s'.reply.extractLsb' 36 4 = 0) : FramerInv s' := by
  obtain ⟨hidle, hunconf, -⟩ := hinv
  obtain ⟨hacc, hnb, hshout⟩ := htrans
  refine ⟨?_, ?_, hreply⟩
  · rwa [hrecv, hacc, hnb, hshout]
  · intro hc
    rw [hrecv]
    exact hunconf (Bool.eq_false_iff.mpr fun h => by simp [hconf h] at hc)

/-- While a configured block is Receiving, the invariant asks only for the latched status. -/
theorem framerInv_of_receiving {s : State} (hrecv : s.receiving = true) (hconf : s.configured = true)
    (hreply : s.reply.extractLsb' 36 4 = 0) : FramerInv s :=
  ⟨fun h => by simp [hrecv] at h, fun h => by simp [hconf] at h, hreply⟩

/-- The status that a commit latches has its upper bits 0 (R87, 10_state.md R29). -/
theorem commit_reply_upper (f : Frame) (s : State) : (commit f s).reply.extractLsb' 36 4 = 0 := by
  obtain ⟨-, -, -, -, hupper⟩ := statusShows_commit f s
  exact hupper

/-- A commit touches the reply latch alone of the framer (40_spi_framer.md R108). -/
theorem commit_framerInv (f : Frame) {s : State} (hinv : FramerInv s) : FramerInv (commit f s) :=
  hinv.of_transaction_eq (by simp [State.receiving]) (by simp) (by simp [State.configured]) (commit_reply_upper f s)

/-- A READ is the commit of its frame, whatever its DATA field (R108). -/
theorem readFrame_eq_commit (a : Addr) (x : Word) (s : State) : readFrame a s = commit (frameOf false a x) s := by
  simp [commit]

/-- A WRITE is the commit of its frame (R108). -/
theorem writeFrame_eq_commit (a : Addr) (d : Word) (s : State) : writeFrame a d s = commit (frameOf true a d) s := by
  simp [commit]

/-- The de-assertion edge leaves an Idle, empty framer, with the reply of a commit or the one before (40_spi_framer.md R104). -/
theorem deassertEdge_framerInv {s : State} (hreply : s.reply.extractLsb' 36 4 = 0) : FramerInv (deassertEdge s) := by
  have hidle : (deassertEdge s).receiving = false := by
    unfold deassertEdge
    simp [State.receiving]
  refine ⟨fun _ => ⟨rfl, rfl, rfl⟩, fun _ => hidle, ?_⟩
  unfold deassertEdge
  split
  · exact commit_reply_upper s.acc s
  · exact hreply

/-- A chip-select level keeps the invariant of a configured block: no edge, or the edge into either state (R101). -/
theorem chipSelect_framerInv {s : State} (l : Level) (hinv : FramerInv s) (hconf : s.configured = true) :
    FramerInv (chipSelect l s) := by
  unfold chipSelect
  split
  · exact hinv
  · split
    · exact framerInv_of_receiving (assertEdge_receiving s) hconf hinv.reply_upper
    · exact deassertEdge_framerInv hinv.reply_upper

/-- A byte keeps the invariant of a configured block: it is accumulated while Receiving and ignored while Idle (R106, R107). -/
theorem byteArrives_framerInv {s : State} (b : Byte) (hinv : FramerInv s) (hconf : s.configured = true) :
    FramerInv (byteArrives b s) := by
  unfold byteArrives
  split
  next hrecv => exact framerInv_of_receiving hrecv hconf hinv.reply_upper
  next => exact hinv

/-- RESET leaves an Idle, empty framer and an empty reply (70_reset_and_hazards.md R250). -/
theorem resetBlock_framerInv (t : Nat) (s : State) : FramerInv (resetBlock t s) :=
  ⟨fun _ => ⟨rfl, rfl, rfl⟩, fun _ => by simp [State.receiving], by simp⟩

/-- Only the framer's instructions and RESET touch the framer (40_spi_framer.md R100). -/
theorem ran_sameFramer {i : Instr} {s s' : State} (h : Ran s i s') (hi : i.isFramers = false) (hr : i.row ≠ .reset) :
    SameFramer s s' := by
  cases h with
  | read | write | csel | byteIn => cases hi
  | reset => exact absurd rfl hr
  | _ => simp [SameFramer]

/-- Only RESET takes a configuration away (43_actions_config.md R205). -/
theorem ran_configured {i : Instr} {s s' : State} (h : Ran s i s') (hr : i.row ≠ .reset) (hconf : s.configured = true) :
    s'.configured = true := by
  cases h with
  | reset => exact absurd rfl hr
  | config => rfl
  | step v t ax ha hle =>
    obtain ⟨-, -, hs⟩ | ⟨-, hs⟩ := stepArrives_cases (lvl v) t ax (clearOut s)
    · simp [State.configured, hs]
    · simpa [State.configured, hs] using hconf
  | _ => simpa [State.configured] using hconf

/-- Every instruction keeps the framer's invariant. -/
theorem ran_framerInv {i : Instr} {s s' : State} (h : Ran s i s') (hinv : FramerInv s) : FramerInv s' := by
  have hkeep : i.isFramers = false → i.row ≠ .reset → FramerInv s' := by
    intro hi hr
    obtain ⟨hcs, hacc, hnb, hshout, hreply⟩ := ran_sameFramer h hi hr
    refine hinv.of_transaction_eq (receiving_congr hcs (ran_own h).1) ⟨hacc, hnb, hshout⟩ (ran_configured h hr) ?_
    rw [hreply]
    exact hinv.reply_upper
  cases h with
  | read a x =>
    rw [readFrame_eq_commit a x]
    exact commit_framerInv _ hinv
  | write a d =>
    rw [writeFrame_eq_commit]
    exact commit_framerInv _ hinv
  | csel v t ax ha hle => exact chipSelect_framerInv (lvl v) hinv (configured_of_axis ha)
  | byteIn v t ax ha hle => exact byteArrives_framerInv (trunc8 v) hinv (configured_of_axis ha)
  | reset t hle => exact resetBlock_framerInv t _
  | _ => exact hkeep rfl nofun

/-- Settles O57: a step runs one instruction, and every instruction keeps the invariant, or it only clears the outputs. -/
theorem stepKeepsFramerInvariant : Obligations.StepKeepsFramerInvariant := by
  intro s s' hinv h
  obtain ⟨-, rfl⟩ | ⟨e, rest, -, hran⟩ := step_next h
  · exact hinv
  · exact ran_framerInv hran hinv

end Sys2Proof.Machine
end

section
/-! The statements on the SPI framer (40_spi_framer.md): the chip-select edges (R101 to R105), the bytes of a transaction
(R106, R107), what the commands READ and WRITE do (R110, R111), and a transaction as a whole (R115). -/

namespace Sys2Proof

/-! ### The wire bytes of a frame -/

/-- The wire bytes of a frame put together again are the frame (20_memory.md R62). -/
theorem frameOfBytes_frameByte (f : Frame) :
    frameOfBytes (frameByte f 1) (frameByte f 2) (frameByte f 3) (frameByte f 4) (frameByte f 5) = f := by
  calc frameOfBytes (frameByte f 1) (frameByte f 2) (frameByte f 3) (frameByte f 4) (frameByte f 5)
    _ = f.extractLsb' 32 8 ++ f.extractLsb' 24 8 ++ f.extractLsb' 16 8 ++ f.extractLsb' 8 8 ++ f.extractLsb' 0 8 := rfl
    _ = f.extractLsb' 0 40 := by
      rw [BitVec.extractLsb'_append_extractLsb'_eq_extractLsb' (show 32 = 24 + 8 from rfl),
        BitVec.extractLsb'_append_extractLsb'_eq_extractLsb' (show 24 = 16 + 8 from rfl),
        BitVec.extractLsb'_append_extractLsb'_eq_extractLsb' (show 16 = 8 + 8 from rfl),
        BitVec.extractLsb'_append_extractLsb'_eq_extractLsb' (show 8 = 0 + 8 from rfl)]
    _ = f := BitVec.extractLsb'_eq_self

/-- The decoder reads the wire bytes of a frame as the frame's command (30_encoding.md R82). -/
theorem decodeBytes_frameBytes (f : Frame) : decodeBytes (frameBytes f) = .ok (decodeFrame f) := by
  calc decodeBytes (frameBytes f)
    _ = .ok (decodeFrame
          (frameOfBytes (frameByte f 1) (frameByte f 2) (frameByte f 3) (frameByte f 4) (frameByte f 5))) := rfl
    _ = .ok (decodeFrame f) := by rw [frameOfBytes_frameByte]

/-- A 40-bit row word decodes to the command of the frame that it is. -/
theorem decodeTableWord_forty (w : Nat) :
    decodeTableWord 40 w = some (decodeFrame (BitVec.ofNat 40 (w % 2 ^ 40))) := by
  simp [decodeTableWord, decodeBytes_frameBytes]

end Sys2Proof

namespace Sys2Proof.Machine
open Sys2Proof

/-! ### The edges and the bytes of a transaction -/

/-- A state shares with itself everything outside the framer. -/
theorem sameOutsideFramer_refl (s : State) : SameOutsideFramer s s := by
  simp [SameOutsideFramer, SameFlags, SameIntegrator, SameOutputs, SameOwn]

/-- After a de-assertion the framer is Idle (R104). -/
@[simp] theorem closeTransaction_receiving (s : State) : (closeTransaction s).receiving = false := by
  simp [State.receiving]

/-- The de-assertion edge returns no status (R104). -/
@[simp] theorem deassertEdge_ret (s : State) : (deassertEdge s).ret = s.ret := by
  unfold deassertEdge
  split <;> simp

/-- The de-assertion edge after any number of bytes but five commits nothing (R105). -/
theorem deassertEdge_of_ne_five {s : State} (hnb : s.nb ≠ 5) : deassertEdge s = closeTransaction s := by
  rw [deassertEdge, if_neg hnb]

/-- CSEL at the de-assertion edge after any number of bytes but five only closes the transaction (R105). -/
theorem execCsel_drop {s : State} {ax : AxisState} {v : Int} {t : Nat} (ha : s.axis = some ax)
    (hrecv : s.receiving = true) (hoff : lvl v ≠ s.par.csAssertLevel) (hnb : s.nb ≠ 5) (hle : s.lastT ≤ t) :
    exec (.csel v t) s = .next (finish t (closeTransaction (clearOut s))) := by
  rw [execCsel_deassert ha hrecv hoff hle, deassertEdge_of_ne_five (s := clearOut s) hnb]

/-- CSEL at the level already held has no effect (R101, R116). -/
theorem execCsel_held {s : State} {ax : AxisState} {v : Int} {t : Nat} (ha : s.axis = some ax) (hheld : lvl v = s.csLvl)
    (hle : s.lastT ≤ t) : exec (.csel v t) s = .next (finish t (clearOut s)) := by
  have hheld' : lvl v = (clearOut s).csLvl := hheld
  rw [ran_exec (.csel v t ax ha hle), chipSelect, if_pos hheld']

/-- A byte while Idle has no effect (R107). -/
theorem execByteIn_idle {s : State} {ax : AxisState} {v : Int} {t : Nat} (ha : s.axis = some ax)
    (hidle : s.receiving = false) (hle : s.lastT ≤ t) : exec (.byteIn v t) s = .next (finish t (clearOut s)) := by
  have hidle' : ¬ (clearOut s).receiving = true := Bool.eq_false_iff.mp hidle
  rw [ran_exec (.byteIn v t ax ha hle), byteArrives, if_neg hidle']

/-- An event handled without effect keeps the framer. -/
theorem sameFramer_finish_clearOut (t : Nat) (s : State) : SameFramer s (finish t (clearOut s)) := by
  simp [SameFramer]

/-- One more byte in the accumulator, as arithmetic: what was there moves up by a byte, and its top byte is lost (R106). -/
theorem shiftIn_toNat (a : Frame) (b : Byte) : (shiftIn a b).toNat = (a.toNat * 256 + b.toNat) % 2 ^ 40 := by
  calc (shiftIn a b).toNat
    _ = (a.toNat <<< 8 ||| b.toNat) % 2 ^ 40 := by
      rw [shiftIn, BitVec.toNat_or, BitVec.toNat_shiftLeft, BitVec.toNat_setWidth, ← Nat.or_mod_two_pow]
    _ = (a.toNat * 256 + b.toNat) % 2 ^ 40 := by
      rw [← Nat.shiftLeft_add_eq_or_of_lt b.isLt, Nat.shiftLeft_eq]

/-- The byte that an integer value stands for (00_scope.md R11). -/
theorem trunc8_toNat (v : Int) : (trunc8 v).toNat = (v % 256).toNat := BitVec.toNat_ofInt v

/-- Settles O10: the assertion edge is the model's `assertEdge`, which opens an empty transaction. -/
theorem assertEdgeLoadsReply : Obligations.AssertEdgeLoadsReply := by
  intro s v t hready hidle hon
  obtain ⟨ax, ha, hle⟩ := ready_axis hready
  exact ⟨_, execCsel_assert ha hidle hon hle, assertEdge_receiving _, rfl, rfl, rfl, rfl, rfl, sameOutsideFramer_refl s,
    rfl, rfl, recorded_finish t _⟩

/-- Settles O11: the edge has the effect of the accumulated frame's commit, and then closes the transaction. -/
theorem deassertCommitsFiveBytes : Obligations.DeassertCommitsFiveBytes := by
  intro s v t hready hrecv hoff hnb
  obtain ⟨ax, ha, hle⟩ := ready_axis hready
  have hexec := execCsel_deassert ha hrecv hoff hle
  obtain ⟨hreply, hregs, hflags, hint, houts, hidle⟩ :=
    deassertEdge_five (s := s) (s1 := clearOut s) hnb rfl rfl (sameOutsideFramer_refl s)
  exact ⟨commit s.acc s, _, exec_decodeFrame s.acc s, hexec, hidle, rfl, rfl, rfl, hreply, hregs, hflags, hint, houts,
    ran_own (exec_ran hexec), deassertEdge_out _, deassertEdge_ret _, recorded_finish t _⟩

/-- Settles O12: nothing is committed, and closing the transaction changes only the framer's own fields. -/
theorem deassertDropsOtherLengths : Obligations.DeassertDropsOtherLengths := by
  intro s v t hready hrecv hoff hnb
  obtain ⟨ax, ha, hle⟩ := ready_axis hready
  exact ⟨_, execCsel_drop ha hrecv hoff hnb hle, closeTransaction_receiving _, rfl, rfl, rfl, rfl, rfl,
    sameOutsideFramer_refl s, rfl, rfl, recorded_finish t _⟩

/-- Settles O13: the level is the one held, so no edge is handled. -/
theorem repeatedChipSelectIsNoEdge : Obligations.RepeatedChipSelectIsNoEdge := by
  intro s v t hready hheld
  obtain ⟨ax, ha, hle⟩ := ready_axis hready
  exact ⟨_, execCsel_held ha hheld hle, sameFramer_finish_clearOut t s, rfl, sameOutsideFramer_refl s, rfl, rfl,
    recorded_finish t _⟩

/-- Settles O14: the shifts of `shiftByte` are multiplications by 256 in 40 bits, and its counter stays at 6. -/
theorem byteInShiftsOneByte : Obligations.ByteInShiftsOneByte := by
  intro s v t hready hrecv
  obtain ⟨ax, ha, hle⟩ := ready_axis hready
  have hshout : (s.shout <<< 8).toNat = s.shout.toNat * 256 % 2 ^ 40 := by
    rw [BitVec.toNat_shiftLeft, Nat.shiftLeft_eq]
  have hacc : (shiftIn s.acc (trunc8 v)).toNat = (s.acc.toNat * 256 + (v % 256).toNat) % 2 ^ 40 := by
    rw [shiftIn_toNat, trunc8_toNat]
  exact ⟨_, execByteIn_receiving ha hrecv hle, rfl, hshout, hacc, countByte_val s.nb, rfl, rfl, rfl,
    sameOutsideFramer_refl s, rfl, recorded_finish t _⟩

/-- Settles O15: while Idle the byte has no effect. -/
theorem byteInIdleIsIgnored : Obligations.ByteInIdleIsIgnored := by
  intro s v t hready hidle
  obtain ⟨ax, ha, hle⟩ := ready_axis hready
  exact ⟨_, execByteIn_idle ha hidle hle, sameFramer_finish_clearOut t s, rfl, sameOutsideFramer_refl s, rfl, rfl,
    recorded_finish t _⟩

/-! ### A dropped transaction -/

/-- A byte counter that saturates at 6 shows five bytes only after exactly five (R106, 10_state.md R24). -/
theorem nb_ne_five {n : Fin 7} {k : Nat} (hn : n.val = min k 6) (hk : k ≠ 5) : n ≠ 5 := by
  rintro rfl
  have hfive : 5 = min k 6 := hn
  omega

/-- Settles O18: the assertion edge and the bytes change only the framer's own fields and not the latch; the counter does
not show five bytes, so the de-assertion edge only closes the transaction. -/
theorem otherLengthTransferIsDropped : Obligations.OtherLengthTransferIsDropped := by
  intro s von voff t0 t1 bs hready hidle hon hoff hlen hord
  obtain ⟨s1, hrun, hbytes, hrecv, hle, -⟩ := assert_bytes_run hready hidle hon hord
  have hother : SameOutsideFramer s s1 := hbytes.other
  obtain ⟨-, ⟨haxis, -⟩, -, hpar, -⟩ := hother
  obtain ⟨ax, ha, -⟩ := ready_axis hready
  have hcount : s1.nb.val = min (0 + bs.length) 6 := hbytes.nb
  rw [Nat.zero_add] at hcount
  have hdrop := execCsel_drop (haxis.trans ha) hrecv (hpar ▸ hoff) (nb_ne_five hcount hlen) hle
  exact ⟨_, _, runTrace_append_of hrun (runTrace_cons_of hdrop rfl), hbytes.reply, hbytes.regs, hbytes.other,
    closeTransaction_receiving _⟩

/-! ### The commands -/

/-- WRITE is the write of its frame (R110). -/
theorem exec_write (a : Addr) (d : Word) (s : State) : exec (.write a d) s = .next (writeFrame a d s) := rfl

/-- Settles O19: the reply is the status byte followed by the register's word, and the side effect is the reset flag's. -/
theorem readLatchesReply : Obligations.ReadLatchesReply := by
  intro s a x
  have hreply : (readFrame a s).reply = statusByte s ++ regRead s a := by simp
  refine ⟨_, exec_read a x s, ?_, ?_, ?_⟩
  · rw [hreply, latched_data]
  · rw [hreply]
    exact statusShows_latch s _
  · simp [SameIntegrator, SameOutputs, SameOwn]

/-- Settles O21: the register write merges one RW word and leaves every other, and the reply keeps its data half. -/
theorem writeMergesUnderMask : Obligations.WriteMergesUnderMask := by
  intro s a d
  have hreply : (writeFrame a d s).reply = statusByte s ++ s.replyData := by simp
  refine ⟨_, exec_write a d s, fun b hb => ?_, fun hrw i hi => ?_, fun hrw => ?_, ?_, ?_, ?_⟩
  · rw [writeFrame_reg, regWrite_other a b d s hb]
  · rw [writeFrame_reg, regWrite_rw a d s hrw, getLsbD_mergeWord _ _ _ i hi]
  · rw [writeFrame_reg, regWrite_of_not_rw a d s hrw]
  · rw [hreply, latched_data, State.replyData]
  · rw [hreply]
    exact statusShows_latch s _
  · simp [SameOutsideFramer, SameFlags, SameIntegrator, SameOutputs, SameOwn]

/-! ### The step that commits a placed frame -/

/-- The state in which the step after `placeFrame` runs its CSEL: the frame is received whole, and the event is taken. -/
def frameReceived (f : Frame) (s : State) : State := { placeFrame f s with inbox := s.inbox }

/-- The CSEL that de-asserts, as `placeFrame` delivers it, comes at the level that is not the asserting one (R101). -/
theorem lvl_deassert_ne (l : Level) : lvl (if l then 0 else 1) ≠ l := by
  cases l <;> decide

/-- Sharing the flags is transitive. -/
theorem SameFlags.trans {s s1 s2 : State} (h1 : SameFlags s s1) (h2 : SameFlags s1 s2) : SameFlags s s2 := by
  simp_all [SameFlags]

/-- With a frame placed, the step runs the CSEL that de-asserts after it. -/
theorem step_placeFrame (f : Frame) (s : State) :
    step (placeFrame f s) = exec (.csel (if s.par.csAssertLevel then 0 else 1) s.lastT) (frameReceived f s) :=
  step_of_inbox_cons (s := placeFrame f s) rfl

/-- A commit has the same effect once its frame is received: placing it changes nothing that the commit reads (R108). -/
theorem commit_frameReceived (f : Frame) (s : State) :
    (commit f (frameReceived f s)).regs = (commit f s).regs ∧ (commit f (frameReceived f s)).reply = (commit f s).reply ∧
    SameFlags (commit f s) (commit f (frameReceived f s)) := by
  have hsame : SameFlags s (frameReceived f s) := ⟨rfl, rfl, rfl, rfl, rfl⟩
  obtain ⟨hreply, hregs, -⟩ := commit_congr (f := f) (s := s) (s' := frameReceived f s) rfl rfl rfl hsame
  exact ⟨hregs, hreply, sameFlags_commit rfl rfl rfl hsame⟩

/-- A frame placed for the next step is committed by that step (R104, R108): the CSEL is the edge of O11. -/
theorem placedFrame_step (f : Frame) (s : State) : ∃ s', step (placeFrame f s) = .next s' ∧
    s'.regs = (commit f s).regs ∧ s'.reply = (commit f s).reply ∧ SameFlags (commit f s) s' ∧
    SameOutputs (commit f s) s' ∧ SameOwn s s' ∧ s'.receiving = false := by
  obtain ⟨s1, s', hcommit, hexec, hidle, -, -, -, hreply, hregs, hflags, -, houts, hown, -⟩ :=
    deassertCommitsFiveBytes (frameReceived f s) _ s.lastT ⟨rfl, le_rfl⟩ (beq_self_eq_true _) (lvl_deassert_ne _) rfl
  obtain rfl : commit f (frameReceived f s) = s1 :=
    Host.Outcome.next.inj ((exec_decodeFrame f _).symm.trans hcommit)
  obtain ⟨hcregs, hcreply, hcflags⟩ := commit_frameReceived f s
  have houts' : SameOutputs s s' := houts
  exact ⟨s', (step_placeFrame f s).trans hexec, hregs.trans hcregs, hreply.trans hcreply, hcflags.trans hflags,
    by simpa [SameOutputs] using houts', hown, hidle⟩

/-- Settles O2: the row's word is decoded as the frame that is placed, and the step commits that frame. -/
theorem placedFrameIsCommitted : Obligations.PlacedFrameIsCommitted := by
  intro s w
  obtain ⟨s', hstep, heffect⟩ := placedFrame_step (BitVec.ofNat 40 (w % 2 ^ 40)) s
  exact ⟨_, _, s', decodeTableWord_forty w, exec_decodeFrame _ s, hstep, heffect⟩

end Sys2Proof.Machine
end

section
/-! The statements on the register file (41_register_file.md): what a register reads as (R133, R139, R142), which instruction
writes one (R132), the invariant of its words (R137) and the round trip of a WRITE and a READ (R138). The invariants at reset
stand at the end. -/

namespace Sys2Proof.Machine
open Sys2Proof

/-! ### What an instruction does to the register file -/

/-- What a chip-select level can have done: nothing, one of the two edges without a commit, or the commit of five bytes
(40_spi_framer.md R101 to R105). -/
theorem chipSelect_cases (l : Level) (s : State) :
    chipSelect l s = s ∨ chipSelect l s = assertEdge s ∨ chipSelect l s = closeTransaction s ∨
    (s.receiving = true ∧ l ≠ s.par.csAssertLevel ∧ s.nb = 5 ∧
      chipSelect l s = closeTransaction (commit s.acc s)) := by
  unfold chipSelect
  split
  next => exact .inl rfl
  next hedge =>
    split
    next => exact .inr (.inl rfl)
    next hoff =>
      unfold deassertEdge
      split
      next hnb =>
        have hlvl : s.csLvl = s.par.csAssertLevel :=
          Bool.not_inj ((Bool.eq_not.mpr hedge).symm.trans (Bool.eq_not.mpr hoff))
        exact .inr (.inr (.inr ⟨beq_iff_eq.mpr hlvl, hoff, hnb, rfl⟩))
      next => exact .inr (.inr (.inl rfl))

/-- What an instruction can have done to the register file: the writers of R132. -/
inductive RegsWritten (s : State) (i : Instr) (s' : State) : Prop where
  | unchanged (hregs : s'.regs = s.regs)
  | reset (hi : i.row = .reset) (hregs : s'.regs = resetRegs s.par)
  | written (a : Addr) (d : Word) (hrw : regClass s.par a = .rw) (hp : Performs s i (.write a d))
      (hregs : s'.regs = (regWrite a d s).regs)

/-- An instruction that performs a WRITE and leaves what its register write leaves is a writer of R132, or it changes
nothing because the address is not RW (R136). -/
theorem regsWritten_of_performs {s s' : State} {i : Instr} {a : Addr} {d : Word} (hp : Performs s i (.write a d))
    (hregs : s'.regs = (regWrite a d s).regs) : RegsWritten s i s' := by
  by_cases hrw : regClass s.par a = .rw
  · exact .written a d hrw hp hregs
  · exact .unchanged (by rw [hregs, regWrite_of_not_rw a d s hrw])

/-- A commit keeps the register file, or its frame decodes to a WRITE and it runs that register write
(40_spi_framer.md R108). -/
theorem commit_regs_cases (f : Frame) (s : State) :
    (commit f s).regs = s.regs ∨
    ∃ a d, decodeFrame f = .write a d ∧ (commit f s).regs = (regWrite a d s).regs := by
  unfold commit decodeFrame
  split
  next => exact .inr ⟨_, _, rfl, by simp⟩
  next => exact .inl (by simp)

/-- CSEL writes a register only by committing a WRITE (R108, R132). -/
theorem csel_regsWritten (v : Int) (t : Nat) (s : State) :
    RegsWritten s (.csel v t) (finish t (chipSelect (lvl v) (clearOut s))) := by
  obtain h | h | h | ⟨hrecv, hoff, hnb, h⟩ := chipSelect_cases (lvl v) (clearOut s)
  · exact .unchanged (by simp [h])
  · exact .unchanged (by simp [h])
  · exact .unchanged (by simp [h])
  · obtain ⟨-, hclear, -⟩ := commit_clearOut s.acc s
    have hcommit : (finish t (chipSelect (lvl v) (clearOut s))).regs = (commit s.acc s).regs := by simp [h, hclear]
    obtain hkeep | ⟨a, d, hdec, hw⟩ := commit_regs_cases s.acc s
    · exact .unchanged (hcommit.trans hkeep)
    · exact regsWritten_of_performs (.inr ⟨v, t, rfl, hrecv, hoff, hnb, hdec⟩) (hcommit.trans hw)

/-- Every instruction that answers treats the register file in one of those ways. -/
theorem ran_regsWritten {i : Instr} {s s' : State} (h : Ran s i s') : RegsWritten s i s' := by
  cases h with
  | write a d => exact regsWritten_of_performs (.inl rfl) (by simp)
  | csel v t ax ha hle => exact csel_regsWritten v t s
  | reset t hle => exact .reset rfl rfl
  | step v t ax ha hle =>
    obtain ⟨-, -, hs⟩ | ⟨-, hs⟩ := stepArrives_cases (lvl v) t ax (clearOut s)
    · exact .unchanged (by simp [hs])
    · exact .unchanged (by simp [hs])
  | _ => exact .unchanged (by simp)

/-- Settles O27: of the three ways, the one that keeps the register file is excluded, and the other two are the writers
named. -/
theorem onlyFramesAndResetWriteRegisters : Obligations.OnlyFramesAndResetWriteRegisters := by
  intro i s s' h hne
  cases ran_regsWritten (exec_ran h) with
  | unchanged hregs => exact absurd hregs hne
  | reset hi hregs => exact .inl hi
  | written a d hrw hp hregs => exact .inr ⟨a, d, hrw, hp⟩

/-! ### The register file's invariant -/

/-- The invariant reads the parameters and the register file alone. -/
theorem RegFileInv.of_regs_eq {s s' : State} (hinv : RegFileInv s) (hpar : s'.par = s.par) (hregs : s'.regs = s.regs) :
    RegFileInv s' := by
  intro a
  rw [hpar, reg_congr hregs]
  exact hinv a

/-- A register write keeps the parameters. -/
@[simp] theorem regWrite_par (a : Addr) (d : Word) (s : State) : (regWrite a d s).par = s.par := by
  unfold regWrite
  split <;> rfl

/-- A register write keeps the invariant: the merged word keeps its bits outside the mask, and no other word changes
(R136, R137). -/
theorem regWrite_regFileInv (a : Addr) (d : Word) {s : State} (hinv : RegFileInv s) : RegFileInv (regWrite a d s) := by
  by_cases hrw : regClass s.par a = .rw
  · intro b
    rw [regWrite_par]
    by_cases hb : b = a
    · subst hb
      obtain ⟨-, -, houtside⟩ := hinv b
      rw [regWrite_rw b d s hrw, mergeWord_outside]
      simpa [hrw] using houtside
    · rw [regWrite_other a b d s hb]
      exact hinv b
  · rwa [regWrite_of_not_rw a d s hrw]

/-- Every instruction keeps the register file's invariant (R137). -/
theorem ran_regFileInv {i : Instr} {s s' : State} (h : Ran s i s') (hinv : RegFileInv s) : RegFileInv s' := by
  obtain ⟨hpar, -⟩ := ran_own h
  cases ran_regsWritten h with
  | unchanged hregs => exact hinv.of_regs_eq hpar hregs
  | reset hi hregs => exact regFileInv_resetRegs (by rw [hregs, hpar])
  | written a d hrw hp hregs => exact (regWrite_regFileInv a d hinv).of_regs_eq (by rw [hpar, regWrite_par]) hregs

/-- Settles O26: a step runs one instruction, and every instruction keeps the invariant, or it only clears the outputs. -/
theorem stepKeepsRegisterFile : Obligations.StepKeepsRegisterFile := by
  intro s s' hinv h
  obtain ⟨-, rfl⟩ | ⟨e, rest, -, hran⟩ := step_next h
  · exact hinv
  · exact ran_regFileInv hran hinv

/-! ### The round trip of a WRITE and a READ -/

/-- A merged word depends on the old one outside the mask only. -/
theorem mergeWord_congr {old old' mask : Word} (h : old &&& ~~~mask = old' &&& ~~~mask) (d : Word) :
    mergeWord old d mask = mergeWord old' d mask := by
  rw [mergeWord, h, mergeWord]

/-- A word merged into itself is itself. -/
theorem mergeWord_self (d mask : Word) : mergeWord d d mask = d := by
  apply BitVec.eq_of_getLsbD_eq
  intro i hi
  rw [getLsbD_mergeWord d d mask i hi, ite_self]

/-- A merged word is the data exactly when the data agrees with the old word outside the mask (R138). -/
theorem mergeWord_eq_data_iff (old d mask : Word) : mergeWord old d mask = d ↔ d &&& ~~~mask = old &&& ~~~mask := by
  constructor
  · intro h
    rw [← mergeWord_outside old d mask, h]
  · intro h
    rw [mergeWord_congr h.symm, mergeWord_self]

/-- After an instruction that performs a WRITE to an RW address, that register holds the merged word (R136). -/
theorem performs_write_reg {s s' : State} {i : Instr} {a : Addr} {d : Word} (hrw : regClass s.par a = .rw)
    (hp : Performs s i (.write a d)) (h : exec i s = .next s') :
    s'.reg a = mergeWord (s.reg a) d (wmask s.par a) := by
  obtain ⟨s1, hexec, -, hregs, -⟩ := performs_next hp h
  obtain rfl : writeFrame a d s = s1 := Host.Outcome.next.inj hexec
  rw [reg_congr hregs, writeFrame_reg, regWrite_rw a d s hrw]

/-- After an instruction that performs a READ, the reply's data is what the register read as (40_spi_framer.md R111). -/
theorem performs_read_data {s s' : State} {i : Instr} {a : Addr} {x : Word} (hp : Performs s i (.read a x))
    (h : exec i s = .next s') : s'.reply.extractLsb' 0 32 = regRead s a := by
  obtain ⟨s1, hexec, hreply, -, -⟩ := performs_next hp h
  obtain ⟨_, hexec', hdata, -⟩ := readLatchesReply s a x
  obtain rfl := Host.Outcome.next.inj (hexec.symm.trans hexec')
  rw [hreply, hdata]

/-- An instruction that is no RESET and performs no WRITE to an address keeps the word there (R132). -/
theorem ran_reg_of_not_written {i : Instr} {s s' : State} {a : Addr} (h : Ran s i s') (hreset : i.row ≠ .reset)
    (hnot : ∀ d, ¬ Performs s i (.write a d)) : s'.reg a = s.reg a := by
  cases ran_regsWritten h with
  | unchanged hregs => exact reg_congr hregs a
  | reset hi hregs => exact absurd hi hreset
  | written b d hrw hp hregs =>
    have hab : a ≠ b := by
      rintro rfl
      exact hnot d hp
    rw [reg_congr hregs, regWrite_other b a d s hab]

/-- A run with no WRITE to an address and no RESET keeps the word there (R138). -/
theorem runTrace_reg_of_noWriteTo {a : Addr} {is : List Instr} {s s' : State} {o : List OutEvent}
    (hno : NoWriteTo a is s) (h : runTrace is s = some (s', o)) : s'.reg a = s.reg a := by
  induction is generalizing s o with
  | nil => cases h; rfl
  | cons i is ih =>
    obtain ⟨hreset, hnot, hrest⟩ := hno
    obtain ⟨s1, o2, hexec, hrun, -⟩ := runTrace_cons h
    calc s'.reg a
      _ = s1.reg a := ih (hrest s1 hexec) hrun
      _ = s.reg a := ran_reg_of_not_written (exec_ran hexec) hreset hnot

/-- A run keeps the parameters. -/
theorem runTrace_par {is : List Instr} {s s' : State} {o : List OutEvent} (h : runTrace is s = some (s', o)) :
    s'.par = s.par :=
  runTrace_induct (P := fun s1 => s1.par = s.par) (fun _ _ _ _ hran hpar => (ran_own hran).1.trans hpar) h rfl

theorem regRead_rw {s : State} {a : Addr} (h : regClass s.par a = .rw) : regRead s a = s.reg a := by
  rw [regRead, h]

/-- Settles O23: the WRITE merges the data into a word whose bits outside the mask are, by the invariant, those of the reset
value; the run between keeps that word, and the READ latches it. -/
theorem writeThenReadRoundTrips : Obligations.WriteThenReadRoundTrips := by
  intro s s1 s2 s3 i j a d x is o hinv hrw hwrite hexec hno hrun hread hexec'
  obtain ⟨hpar1, -⟩ := ran_own (exec_ran hexec)
  have hrw2 : regClass s2.par a = .rw := by rw [runTrace_par hrun, hpar1, hrw]
  obtain ⟨-, -, houtside⟩ := hinv a
  have hlatched : s3.reply.extractLsb' 0 32 = mergeWord (resetValue s.par a) d (wmask s.par a) := by
    calc s3.reply.extractLsb' 0 32
      _ = regRead s2 a := performs_read_data hread hexec'
      _ = s2.reg a := regRead_rw hrw2
      _ = s1.reg a := runTrace_reg_of_noWriteTo hno hrun
      _ = mergeWord (s.reg a) d (wmask s.par a) := performs_write_reg hrw hwrite hexec
      _ = mergeWord (resetValue s.par a) d (wmask s.par a) := mergeWord_congr (houtside hrw) d
  rw [hlatched]
  exact ⟨rfl, mergeWord_eq_data_iff _ _ _⟩

/-! ### What a register reads as -/

/-- The live part of GSTAT, bit by bit (10_state.md R33). -/
theorem getLsbD_gstatLive : ∀ drvErr reset : Bool, ∀ i, i < 32 →
    ((BitVec.ofBool drvErr ++ BitVec.ofBool reset).setWidth 32).getLsbD i =
      if i = 0 then reset else if i = 1 then drvErr else false := by decide

/-- The live part of DRV_STATUS, bit by bit (R33). -/
theorem getLsbD_drvStatusLive : ∀ stst sg : Bool, ∀ i, i < 32 →
    (((BitVec.ofBool stst).setWidth 32 <<< 31) ||| ((BitVec.ofBool sg).setWidth 32 <<< 24) : Word).getLsbD i =
      if i = 24 then sg else if i = 31 then stst else false := by decide

/-- The live bits of GSTAT (R33). -/
theorem getLsbD_gstatMask : ∀ i, i < 32 → (liveMask 0x01).getLsbD i = decide (i = 0 ∨ i = 1) := by decide

/-- The live bits of DRV_STATUS (R33). -/
theorem getLsbD_drvStatusMask : ∀ i, i < 32 → (liveMask 0x6F).getLsbD i = decide (i = 24 ∨ i = 31) := by decide

/-- No other address has live bits (R33). -/
theorem liveMask_eq_zero {a : Addr} (hg : a ≠ 0x01) (hd : a ≠ 0x6F) : liveMask a = 0 := by
  rw [liveMask, if_neg hg, if_neg hd]

theorem liveBits_eq_zero {a : Addr} (s : State) (hg : a ≠ 0x01) (hd : a ≠ 0x6F) : liveBits s a = 0 := by
  rw [liveBits, if_neg hg, if_neg hd]

/-- A status register reads as its live bits, and its stored bits where none is live (41_register_file.md R133). -/
theorem getLsbD_regRead_of_statusRo {s : State} {a : Addr} (h : regClass s.par a = .statusRo) {i : Nat} (hi : i < 32) :
    (regRead s a).getLsbD i = (((s.reg a).getLsbD i && !(liveMask a).getLsbD i) || (liveBits s a).getLsbD i) := by
  simp [regRead, h, hi]

/-- A status register reads as the flags of GSTAT and DRV_STATUS, and every other bit as stored (R133). -/
theorem getLsbD_regRead_statusRo {s : State} {a : Addr} (h : regClass s.par a = .statusRo) {i : Nat} (hi : i < 32) :
    (regRead s a).getLsbD i =
      if a = 0x01 ∧ i = 0 then s.fReset
      else if a = 0x01 ∧ i = 1 then s.fDrvErr
      else if a = 0x6F ∧ i = 24 then s.sg
      else if a = 0x6F ∧ i = 31 then s.stst
      else (s.reg a).getLsbD i := by
  rw [getLsbD_regRead_of_statusRo h hi]
  by_cases hg : a = 0x01
  · subst hg
    have hlive : (liveBits s 0x01).getLsbD i = if i = 0 then s.fReset else if i = 1 then s.fDrvErr else false :=
      getLsbD_gstatLive _ _ i hi
    rw [getLsbD_gstatMask i hi, hlive]
    by_cases h0 : i = 0
    · simp [h0]
    · by_cases h1 : i = 1 <;> simp [h0, h1]
  · by_cases hd : a = 0x6F
    · subst hd
      have hlive : (liveBits s 0x6F).getLsbD i = if i = 24 then s.sg else if i = 31 then s.stst else false :=
        getLsbD_drvStatusLive _ _ i hi
      rw [getLsbD_drvStatusMask i hi, hlive]
      by_cases h24 : i = 24
      · simp [h24]
      · by_cases h31 : i = 31 <;> simp [h24, h31]
    · rw [liveMask_eq_zero hg hd, liveBits_eq_zero s hg hd, if_neg (hg ·.1), if_neg (hg ·.1), if_neg (hd ·.1),
        if_neg (hd ·.1)]
      simp

theorem regRead_unimpl {s : State} {a : Addr} (h : regClass s.par a = .unimpl) : regRead s a = 0 := by
  rw [regRead, h]

/-- Settles O22: an UNIMPL address reads as 0, an RW one as stored, and a status register bit by bit. -/
theorem regReadFollowsClass : Obligations.RegReadFollowsClass :=
  fun _ _ => ⟨regRead_unimpl, regRead_rw, fun h _ hi => getLsbD_regRead_statusRo h hi⟩

/-- What registers read as depends on the parameters, the register file and the status flags (R133). -/
theorem regRead_congr {s s' : State} (hpar : s'.par = s.par) (hregs : s'.regs = s.regs) (hflags : SameFlags s s')
    (a : Addr) : regRead s' a = regRead s a := by
  obtain ⟨hreset, hdrv, hsg, hstst, -⟩ := hflags
  simp only [regRead, liveBits, hpar, reg_congr hregs, hreset, hdrv, hsg, hstst]

/-- Settles O24: the register write changes nothing at an address that is not RW, and WRITE keeps the flags. -/
theorem readOnlyWriteLeavesRead : Obligations.ReadOnlyWriteLeavesRead := by
  intro s a d hro
  have hregs : (writeFrame a d s).regs = s.regs := by
    simp [regWrite_of_not_rw a d s (by simp [hro])]
  exact ⟨_, exec_write a d s, regRead_congr (by simp) hregs (by simp [SameFlags])⟩

/-- A bit of the data half of a latched reply. -/
theorem getLsbD_latched_data (st : Byte) (d : Word) {i : Nat} (hi : i < 32) :
    @BitVec.getLsbD 40 (st ++ d) i = d.getLsbD i :=
  BitVec.getLsbD_append.trans (if_pos hi)

/-- A READ of GSTAT latches the two flags in its lowest bits and stored bits above them (R133, 40_spi_framer.md R111). -/
theorem readFrame_gstat_reply {s : State} (hro : regClass s.par 0x01 = .statusRo) :
    (readFrame 0x01 s).reply.getLsbD 0 = s.fReset ∧ (readFrame 0x01 s).reply.getLsbD 1 = s.fDrvErr ∧
    (readFrame 0x01 s).reply.extractLsb' 2 30 = (s.reg 0x01).extractLsb' 2 30 := by
  have hbit : ∀ {i : Nat}, i < 32 → (readFrame 0x01 s).reply.getLsbD i = (regRead s 0x01).getLsbD i := by
    intro i hi
    rw [show (readFrame 0x01 s).reply = statusByte s ++ regRead s 0x01 by simp, getLsbD_latched_data _ _ hi]
  refine ⟨?_, ?_, ?_⟩
  · rw [hbit (by decide), getLsbD_regRead_statusRo hro (by decide)]
    simp
  · rw [hbit (by decide), getLsbD_regRead_statusRo hro (by decide)]
    simp
  · apply BitVec.eq_of_getLsbD_eq
    intro i hi
    have hi' : 2 + i < 32 := by omega
    have hlow : 2 + i ≠ 0 ∧ 2 + i ≠ 1 := by omega
    rw [BitVec.getLsbD_extractLsb', BitVec.getLsbD_extractLsb', hbit hi', getLsbD_regRead_statusRo hro hi']
    simp [hlow]

/-- Settles O25: the first READ clears the reset flag (R134) and keeps the parameters, the other flags and the register
file, so the second one latches the same bits but the lowest. -/
theorem secondGstatReadShowsCleared : Obligations.SecondGstatReadShowsCleared := by
  intro s x y hro hclear
  have hro' : regClass (readFrame 0x01 s).par 0x01 = .statusRo := by simpa using hro
  obtain ⟨hreset, hdrv, -⟩ := readFrame_gstat_reply hro
  obtain ⟨hreset', hdrv', hrest'⟩ := readFrame_gstat_reply hro'
  refine ⟨_, _, exec_read 0x01 x s, exec_read 0x01 y _, hreset, hdrv, ?_, ?_, ?_⟩
  · rw [hreset']
    simp [hclear]
  · rw [hdrv']
    simp
  · rw [hrest', reg_congr (s := s) (by simp)]

/-! ### The state after reset -/

/-- Settles O5: reset leaves the register file of its reset words, no axis, an Idle and empty framer, no deadline, and the
snapshot and driver-error flag of such a state. -/
theorem invariantsHoldAtReset : Obligations.InvariantsHoldAtReset := by
  have hregs : RegFileInv State.reset := regFileInv_resetRegs rfl
  have haxis : AxisInv State.reset := nofun
  have houtputs : OutputInv State.reset := ⟨rfl, rfl⟩
  have hframer : FramerInv State.reset := ⟨fun _ => ⟨rfl, rfl, rfl⟩, fun _ => rfl, rfl⟩
  have htimer : TimerInv State.reset := ⟨nofun, fun _ => rfl⟩
  exact ⟨hregs, haxis, houtputs, hframer, htimer, rfl, rfl⟩

end Sys2Proof.Machine
end

section
/-! The statements on the step integrator (42_step_integrator.md): its independence from the framer (R180), what STEP, DIR,
EN and TIMEOUT do (R160 to R171, R185), the standstill timer (R184), the bounds of the step count (R176), the counting law
(R173) and the derived position (R174, R178). -/

namespace Sys2Proof.Machine
open Sys2Proof

/-! ### Independence from the framer -/

/-- Outside the framer only RESET writes a register (R180). -/
theorem ran_regs_of_not_framers {i : Instr} {s s' : State} (h : Ran s i s') (hi : i.isFramers = false)
    (hr : i.row ≠ .reset) : s'.regs = s.regs := by
  cases h with
  | read | write | csel | byteIn => cases hi
  | reset => exact absurd rfl hr
  | _ => simp

/-- The framer's instructions touch neither the integrator nor the levels of its outputs (R180). -/
theorem ran_sameIntegrator_of_framers {i : Instr} {s s' : State} (h : Ran s i s') (hi : i.isFramers = true) :
    SameIntegrator s s' ∧ SameOutputs s s' := by
  cases h with
  | read | write | csel | byteIn => simp [SameIntegrator, SameOutputs]
  | _ => cases hi

/-- Settles O28: the rows outside the framer keep its fields and the register file, and the framer's rows keep the rest. -/
theorem framerAndIntegratorAreIndependent : Obligations.FramerAndIntegratorAreIndependent := by
  intro i s s' h
  have hran := exec_ran h
  exact ⟨fun hi hr => ⟨ran_sameFramer hran hi hr, ran_regs_of_not_framers hran hi hr⟩,
    ran_sameIntegrator_of_framers hran⟩

/-- What DIR, EN, STEP and TIMEOUT share: framer, registers and the model's own fields stay, and the event is recorded. -/
theorem ran_integrator_frame {i : Instr} {s s' : State} {t : Nat} (h : Ran s i s') (hi : i.isFramers = false)
    (hr : i.row ≠ .reset) (ht : i.time? = some t) :
    SameFramer s s' ∧ s'.regs = s.regs ∧ SameOwn s s' ∧ Recorded t s' :=
  ⟨ran_sameFramer h hi hr, ran_regs_of_not_framers h hi hr, ran_own h, ran_recorded ht h⟩

/-! ### DIR and EN -/

/-- A level is 1 exactly when the integer it is given as is not 0 (00_scope.md R13). -/
theorem lvl_eq_true_iff (v : Int) : lvl v = true ↔ v ≠ 0 := decide_eq_true_iff

/-- Settles O31: the event is the model's `latchDir`. -/
theorem dirLatchesLevel : Obligations.DirLatchesLevel := by
  intro s v t hready
  obtain ⟨ax, ha, hle⟩ := ready_axis hready
  have hran : Ran s (.dir v t) _ := .dir v t ax ha hle
  obtain ⟨hframer, hregs, hown, hrec⟩ := ran_integrator_frame hran rfl nofun rfl
  exact ⟨_, ran_exec hran, lvl_eq_true_iff v, rfl, rfl, rfl, rfl, hframer, hregs, ⟨rfl, rfl, rfl, rfl, rfl⟩,
    ⟨rfl, rfl, rfl⟩, hown, rfl, rfl, hrec⟩

/-- Settles O32: the event is the model's `latchEn`, and the snapshot is taken after it. -/
theorem enLatchesLevel : Obligations.EnLatchesLevel := by
  intro s v t hready
  obtain ⟨ax, ha, hle⟩ := ready_axis hready
  have hran : Ran s (.en v t) _ := .en v t ax ha hle
  obtain ⟨hframer, hregs, hown, hrec⟩ := ran_integrator_frame hran rfl nofun rfl
  exact ⟨_, ran_exec hran, lvl_eq_true_iff v, rfl, rfl, rfl, rfl, hframer, hregs, ⟨rfl, rfl, rfl, rfl, rfl⟩,
    ⟨rfl, rfl, rfl⟩, hown, rfl, rfl, hrec, beq_iff_eq⟩

/-! ### STEP -/

/-- STEP with a qualifying edge while enabled tracks the level and counts (R160). -/
theorem execStep_counted {s : State} {ax : AxisState} {v : Int} {t : Nat} (ha : s.axis = some ax) (hle : s.lastT ≤ t)
    (hedge : StepEdge s (lvl v)) (hen : s.enabled = true) :
    exec (.step v t) s = .next (finish t (countStep t ax { clearOut s with stepLvl := lvl v })) := by
  rw [ran_exec (.step v t ax ha hle)]
  obtain ⟨-, -, hs⟩ | ⟨hnot, -⟩ := stepArrives_cases (lvl v) t ax (clearOut s)
  · rw [hs]
  · exact hnot.elim (absurd hedge) fun hoff => absurd hen (Bool.eq_false_iff.mp hoff)

/-- STEP with no qualifying edge, or while disabled, only tracks the level (R162, R163). -/
theorem execStep_tracked {s : State} {ax : AxisState} {v : Int} {t : Nat} (ha : s.axis = some ax) (hle : s.lastT ≤ t)
    (hnot : ¬ (StepEdge s (lvl v) ∧ s.enabled = true)) :
    exec (.step v t) s = .next (finish t { clearOut s with stepLvl := lvl v }) := by
  rw [ran_exec (.step v t ax ha hle)]
  obtain ⟨hedge, hen, -⟩ | ⟨-, hs⟩ := stepArrives_cases (lvl v) t ax (clearOut s)
  · exact absurd ⟨hedge, hen⟩ hnot
  · rw [hs]

/-- Settles O30: only the level is tracked. -/
theorem uncountedStepOnlyTracksLevel : Obligations.UncountedStepOnlyTracksLevel := by
  intro s v t hready hnot
  obtain ⟨ax, ha, hle⟩ := ready_axis hready
  have hexec := execStep_tracked (v := v) ha hle
    (fun ⟨hedge, hen⟩ => hnot.elim (fun hoff => absurd hen (Bool.eq_false_iff.mp hoff)) (absurd hedge))
  obtain ⟨hframer, hregs, hown, hrec⟩ := ran_integrator_frame (exec_ran hexec) rfl nofun rfl
  exact ⟨_, hexec, rfl, rfl, rfl, rfl, rfl, hframer, hregs, ⟨rfl, rfl, rfl, rfl, rfl⟩, ⟨rfl, rfl, rfl⟩, hown, rfl, rfl,
    hrec⟩

/-! ### The axis after a counted step -/

/-- What the axis invariant says of the axis itself. -/
def AxisOk (ax : AxisState) : Prop :=
  configValid ax.cfg = true ∧
  (ax.maxSteps : Int) = ax.cfg.maxMM * ax.cfg.stepsPerMM ∧
  (ax.cfg.noEndStops = false → 0 ≤ ax.stepCount.toInt ∧ ax.stepCount.toInt ≤ ax.maxSteps)

/-- The axis after a counted step with the direction latch at `dir` (R167). -/
def countedAxis (p : Params) (dir : Level) (ax : AxisState) : AxisState :=
  { ax with stepCount := boundedCount ax (exactCount p ax dir) }

theorem AxisInv.ok {s : State} {ax : AxisState} (hinv : AxisInv s) (ha : s.axis = some ax) : AxisOk ax := hinv ax ha

/-- The axis that a valid record sets up is a good one (R175). -/
theorem initialAxis_ok {c : AxisConfig} (h : configValid c = true) : AxisOk (initialAxis c) := ⟨h, initialAxis_inv h⟩

/-- The travel bound of a good axis is inside the 32-bit range (R172, 43_actions_config.md R206). -/
theorem AxisOk.maxSteps_le {ax : AxisState} (hok : AxisOk ax) : (ax.maxSteps : Int) ≤ 2 ^ 31 - 1 := by
  obtain ⟨hv, hmax, -⟩ := hok
  rw [hmax]
  exact (travelBound_range hv).2

/-- The step count that a good axis takes from the exact count `n`: wrapped without end-stops, clamped with them (R168,
R169). -/
theorem AxisOk.boundedCount_toInt {ax : AxisState} (hok : AxisOk ax) (n : Int) :
    (boundedCount ax n).toInt =
      if ax.cfg.noEndStops = true then n.bmod (2 ^ 32) else min (max n 0) ax.maxSteps := by
  split
  next hfree => exact boundedCount_free hfree
  next hstops => exact boundedCount_endStops hok.maxSteps_le (Bool.eq_false_iff.mpr hstops)

/-- A counted step leaves a good axis good: the new count is clamped (R168, R176). -/
theorem AxisOk.counted {ax : AxisState} (hok : AxisOk ax) (p : Params) (dir : Level) :
    AxisOk (countedAxis p dir ax) := by
  have hcount := hok.boundedCount_toInt (exactCount p ax dir)
  obtain ⟨hv, hmax, -⟩ := hok
  refine ⟨hv, hmax, fun hstops => ?_⟩
  have hstops : ax.cfg.noEndStops = false := hstops
  simp only [hstops, Bool.false_eq_true, if_false] at hcount
  show 0 ≤ (boundedCount ax _).toInt ∧ (boundedCount ax _).toInt ≤ (ax.maxSteps : Int)
  omega

/-- The step delta in terms of the levels (R166). -/
theorem stepDelta_eq (p : Params) (c : AxisConfig) (dir : Level) :
    stepDelta p c dir = if xor dir c.inverted = p.dirUpLevel then 1 else -1 := by
  simp [stepDelta, countsUp]

/-- The DIAG events of a change, decided on the new level. -/
theorem diagChange_eq (old new : Level) : diagChange old new = if new = old then [] else [.diag new] := by
  simp only [diagChange, eq_comm]

/-- Settles O29: the event tracks the level and runs the model's `countStep`, whose count is the bounded one. -/
theorem countedStepMovesAndReports : Obligations.CountedStepMovesAndReports := by
  intro s v t ax hinv ha hle hedge hen
  have hexec := execStep_counted ha hle hedge (beq_iff_eq.mpr hen)
  obtain ⟨hframer, hregs, hown, hrec⟩ := ran_integrator_frame (exec_ran hexec) rfl nofun rfl
  refine ⟨_, countedAxis s.par s.dirLvl ax, exactCount s.par ax s.dirLvl, hexec, rfl, ?_, rfl, rfl,
    (hinv.ok ha).boundedCount_toInt _, rfl, rfl, ?_, rfl, rfl, rfl, ?_, rfl, rfl, rfl, rfl, rfl, rfl, hframer, hregs, hown,
    rfl, hrec⟩
  · rw [exactCount, stepDelta_eq]
  · exact (Bool.and_assoc _ _ _).symm
  · rw [← diagChange_eq]
    simp

/-! ### TIMEOUT -/

/-- TIMEOUT at any time other than the armed deadline is refused (R185). -/
theorem execTimeout_spurious {s : State} {ax : AxisState} {t : Nat} (ha : s.axis = some ax) (hle : s.lastT ≤ t)
    (hd : s.ssDeadline ≠ some t) : exec (.timeout t) s = .refused .spuriousTimeout := by
  simp [exec, execTimeout, arriveConfigured_of_ready ha hle, hd]

/-- A STALL_MODE that is a register bit is that bit of the stored word (10_state.md R35). -/
theorem stallModeOn_bit {s : State} {a : Addr} {k : Fin 32} (h : s.par.stallMode = .bit a k) :
    stallModeOn s = (s.reg a).getLsbD k.val := by
  rw [stallModeOn, h, evalRegBool]

/-- Where DIAG is only ever raised, the event of a change is that of the level 1. -/
theorem diagChange_or (l b : Level) : diagChange l (l || b) = if (l || b) = l then [] else [.diag true] := by
  cases l <;> cases b <;> rfl

/-- Settles O33: at the deadline the event is the model's `standstill`, which only raises DIAG; elsewhere it is refused. -/
theorem timeoutSetsStandstill : Obligations.TimeoutSetsStandstill := by
  intro s t hready
  obtain ⟨ax, ha, hle⟩ := ready_axis hready
  refine ⟨fun a k => stallModeOn_bit, fun hd => ?_, execTimeout_spurious ha hle⟩
  have hran : Ran s (.timeout t) _ := .timeout t ax ha hle hd
  obtain ⟨hframer, hregs, hown, hrec⟩ := ran_integrator_frame hran rfl nofun rfl
  refine ⟨_, ran_exec hran, rfl, rfl, ?_, ?_, rfl, rfl, rfl, rfl, rfl, rfl, rfl, rfl, rfl, rfl, hframer, hregs, hown, rfl,
    hrec⟩
  · simp
  · exact diagChange_or s.diag _

/-! ### What an instruction does to the step count and the timer -/

/-- The rows that leave the timer unarmed whatever it was before (R184, R185). -/
def Disarms (i : Instr) : Prop := i.row = .timeout ∨ i.row = .config ∨ i.row = .reset

/-- What an instruction can have done to the axis and the timer: a counted step writes both; TIMEOUT, CONFIG and RESET
disarm the timer, and leave an axis only where it stood or where a valid record set it up; nothing else touches them. -/
inductive AxisAndTimerWritten (s : State) (i : Instr) (s' : State) : Prop where
  | unchanged (hstep : ¬ CountedStep s i) (hrow : ¬ Disarms i) (haxis : s'.axis = s.axis)
      (hdl : s'.ssDeadline = s.ssDeadline)
  | counted (v : Int) (t : Nat) (ax : AxisState) (hi : i = .step v t) (hstep : CountedStep s i) (ha : s.axis = some ax)
      (haxis : s'.axis = some (countedAxis s.par s.dirLvl ax))
      (hdl : s'.ssDeadline = some (t + s.par.standstillWindow))
  | disarmed (hrow : Disarms i) (hdl : s'.ssDeadline = none)
      (haxis : ∀ ax, s'.axis = some ax → s.axis = some ax ∨ ∃ c, configValid c = true ∧ ax = initialAxis c)

theorem not_countedStep_of_row_ne {s : State} {i : Instr} (h : i.row ≠ .step) : ¬ CountedStep s i := by
  rintro ⟨v, t, rfl, -⟩
  exact h rfl

/-- Every instruction that answers treats the axis and the timer in one of those ways. -/
theorem ran_axisAndTimerWritten {i : Instr} {s s' : State} (h : Ran s i s') : AxisAndTimerWritten s i s' := by
  cases h with
  | step v t ax ha hle =>
    obtain ⟨hedge, hen, hs⟩ | ⟨hnot, hs⟩ := stepArrives_cases (lvl v) t ax (clearOut s)
    · exact .counted v t ax rfl ⟨v, t, rfl, hedge, hen⟩ ha (by rw [hs]; rfl) (by rw [hs]; rfl)
    · refine .unchanged ?_ (by simp [Disarms, Instr.row]) (by rw [hs]; rfl) (by rw [hs]; rfl)
      rintro ⟨_, _, ⟨⟩, hedge, hen⟩
      exact hnot.elim (absurd hedge) fun hoff => absurd hen (Bool.eq_false_iff.mp hoff)
  | timeout t ax ha hle hd => exact .disarmed (.inl rfl) rfl fun _ h => .inl h
  | config c t ha hle hv => exact .disarmed (.inr (.inl rfl)) rfl fun _ h => .inr ⟨c, hv, (Option.some.inj h).symm⟩
  | reset t hle => exact .disarmed (.inr (.inr rfl)) rfl nofun
  | _ => exact .unchanged (not_countedStep_of_row_ne nofun) (by simp [Disarms, Instr.row]) (by simp) (by simp)

/-! ### The standstill timer -/

/-- Settles O38: a counted step arms the timer, the three rows disarm it, and every other instruction keeps it. -/
theorem onlyCountedStepsArmTimer : Obligations.OnlyCountedStepsArmTimer := by
  intro i s s' h
  cases ran_axisAndTimerWritten (exec_ran h) with
  | unchanged hstep hrow haxis hdl =>
    exact ⟨fun v t hi hedge hen => absurd ⟨v, t, hi, hedge, hen⟩ hstep, fun hi => absurd hi hrow, absurd hdl, absurd hdl⟩
  | counted v t ax hi hstep ha haxis hdl =>
    subst hi
    refine ⟨?_, by simp [Instr.row], fun _ _ => hstep, fun _ hnone => by simp [hdl] at hnone⟩
    rintro _ _ ⟨⟩ - -
    exact hdl
  | disarmed hrow hdl haxis =>
    refine ⟨?_, fun _ => hdl, fun _ hsome => absurd hdl hsome, fun _ _ => hrow⟩
    rintro v t rfl
    simp [Disarms, Instr.row] at hrow

/-- A timer that is not armed stays so but for a STEP (R184). -/
theorem ran_unarmed {i : Instr} {s s' : State} (h : Ran s i s') (hi : i.row ≠ .step) (hd : s.ssDeadline = none) :
    s'.ssDeadline = none := by
  cases ran_axisAndTimerWritten h with
  | unchanged hstep hrow haxis hdl => exact hdl.trans hd
  | counted v t ax hi' hstep ha haxis hdl => exact absurd hstep (not_countedStep_of_row_ne hi)
  | disarmed hrow hdl haxis => exact hdl

/-- A TIMEOUT that is handled came at the armed deadline, and leaves the timer unarmed (R185). -/
theorem ran_timeout_deadline {s s' : State} {t : Nat} (h : Ran s (.timeout t) s') :
    s.ssDeadline = some t ∧ s'.ssDeadline = none := by
  cases h with
  | timeout _ ax ha hle hd => exact ⟨hd, rfl⟩

/-- A run of two lists that answers ran the first and then the second. -/
theorem runTrace_append {is js : List Instr} {s s2 : State} {o : List OutEvent}
    (h : runTrace (is ++ js) s = some (s2, o)) :
    ∃ s1 o1 o2, runTrace is s = some (s1, o1) ∧ runTrace js s1 = some (s2, o2) ∧ o = o1 ++ o2 := by
  induction is generalizing s o with
  | nil => exact ⟨s, [], o, rfl, h, rfl⟩
  | cons i is ih =>
    obtain ⟨s1, _, hexec, hrest, rfl⟩ := runTrace_cons h
    obtain ⟨s3, o3, o2, hrun, hlast, rfl⟩ := ih hrest
    exact ⟨s3, _, o2, runTrace_cons_of hexec hrun, hlast, (List.append_assoc _ _ _).symm⟩

/-- Settles O36: the first TIMEOUT leaves the timer unarmed, the run between arms nothing, and a TIMEOUT that is handled
finds a deadline. -/
theorem timerFiresOncePerArming : Obligations.TimerFiresOncePerArming := by
  intro s d d' is hno
  rw [Option.eq_none_iff_forall_ne_some]
  rintro ⟨s', o⟩ hall
  obtain ⟨s1, _, hfirst, hrest, -⟩ := runTrace_cons hall
  obtain ⟨s2, _, _, hbetween, hlast, -⟩ := runTrace_append hrest
  obtain ⟨s3, _, hsecond, -⟩ := runTrace_cons hlast
  obtain ⟨-, hunarmed⟩ := ran_timeout_deadline (exec_ran hfirst)
  have hstill : s2.ssDeadline = none :=
    runTrace_induct (P := fun s => s.ssDeadline = none) (fun i hi _ _ hran => ran_unarmed hran (hno i hi)) hbetween
      hunarmed
  obtain ⟨harmed, -⟩ := ran_timeout_deadline (exec_ran hsecond)
  simp [hstill] at harmed

/-- The recorded time stamp never goes back (60_exceptions.md R238). -/
theorem ran_lastT_le {i : Instr} {s s' : State} (h : Ran s i s') : s.lastT ≤ s'.lastT := by
  cases h with
  | read | write => simp
  | _ => assumption

/-- Every instruction keeps the timer's invariant (R184). -/
theorem ran_timerInv {i : Instr} {s s' : State} (h : Ran s i s') (hinv : TimerInv s) : TimerInv s' := by
  obtain ⟨hpar, -⟩ := ran_own h
  obtain ⟨hahead, hunconf⟩ := hinv
  cases ran_axisAndTimerWritten h with
  | unchanged hstep hrow haxis hdl =>
    refine ⟨fun d hd => ?_, fun hconf => ?_⟩
    · calc d
        _ ≤ s.lastT + s.par.standstillWindow := hahead d (hdl ▸ hd)
        _ ≤ s'.lastT + s'.par.standstillWindow := by rw [hpar]; exact Nat.add_le_add_right (ran_lastT_le h) _
    · rw [hdl]
      exact hunconf (by simpa [State.configured, haxis] using hconf)
  | counted v t ax hi hstep ha haxis hdl =>
    subst hi
    obtain ⟨hlast, -⟩ := ran_recorded rfl h
    refine ⟨fun d hd => ?_, fun hconf => ?_⟩
    · rw [hlast, hpar, Option.some.inj (hdl.symm.trans hd)]
    · simp [configured_of_axis haxis] at hconf
  | disarmed hrow hdl haxis => exact ⟨fun d hd => by simp [hdl] at hd, fun _ => hdl⟩

/-- A step runs one instruction from the state without the event taken, or only clears the outputs: what reads neither the
inbox nor the outputs and is kept by every instruction is kept by every step (00_scope.md R16). -/
theorem step_keeps {P : State → Prop} (hinbox : ∀ s rest, P s → P { s with inbox := rest })
    (hclear : ∀ s, P s → P (clearOut s)) (hran : ∀ {i s s'}, Ran s i s' → P s → P s') {s s' : State} (hp : P s)
    (h : step s = .next s') : P s' := by
  obtain ⟨-, rfl⟩ | ⟨e, rest, -, hrun⟩ := step_next h
  · exact hclear s hp
  · exact hran hrun (hinbox s rest hp)

/-- Settles O39: every instruction keeps the invariant, which reads neither the inbox nor the outputs. -/
theorem stepKeepsTimerInvariant : Obligations.StepKeepsTimerInvariant :=
  fun _ _ => step_keeps (fun _ _ hinv => hinv) (fun _ hinv => hinv) ran_timerInv

/-! ### The axis invariant -/

/-- Every instruction keeps the axis invariant (R176). -/
theorem ran_axisInv {i : Instr} {s s' : State} (h : Ran s i s') (hinv : AxisInv s) : AxisInv s' := by
  intro ax' ha'
  show AxisOk ax'
  cases ran_axisAndTimerWritten h with
  | unchanged hstep hrow haxis hdl => exact hinv.ok (haxis ▸ ha')
  | counted v t ax hi hstep ha haxis hdl =>
    obtain rfl := Option.some.inj (haxis.symm.trans ha')
    exact (hinv.ok ha).counted s.par s.dirLvl
  | disarmed hrow hdl haxis =>
    obtain hold | ⟨c, hv, rfl⟩ := haxis ax' ha'
    · exact hinv.ok hold
    · exact initialAxis_ok hv

/-- Settles O34: every instruction keeps the invariant, which reads neither the inbox nor the outputs. -/
theorem stepKeepsCountInBounds : Obligations.StepKeepsCountInBounds :=
  fun _ _ => step_keeps (fun _ _ hinv => hinv) (fun _ hinv => hinv) ran_axisInv

/-! ### The counting law -/

/-- The step count that the law gives for `k` counted steps in one direction (R173). -/
def countAfter (up : Bool) (ax : AxisState) (k : Int) : Int :=
  if ax.cfg.noEndStops = true then
    (if up = true then ax.stepCount.toInt + k else ax.stepCount.toInt - k).bmod (2 ^ 32)
  else if up = true then min (ax.stepCount.toInt + k) ax.maxSteps
  else max (ax.stepCount.toInt - k) 0

/-- No counted step leaves the count of a good axis. -/
theorem AxisOk.countAfter_zero {ax : AxisState} (hok : AxisOk ax) (up : Bool) :
    countAfter up ax 0 = ax.stepCount.toInt := by
  obtain ⟨-, -, hbounds⟩ := hok
  unfold countAfter
  split
  next => simp only [Int.add_zero, Int.sub_zero, ite_self, BitVec.toInt_bmod_cancel]
  next hstops =>
    obtain ⟨hlo, hhi⟩ := hbounds (Bool.eq_false_iff.mpr hstops)
    split <;> omega

/-- One counted step and then `k` more are `k + 1` (R173): wrapping is compatible with addition (R169), and a count stopped
at a bound stays there (R168). -/
theorem AxisOk.countAfter_counted {ax : AxisState} (hok : AxisOk ax) (p : Params) (dir : Level) (k : Nat) :
    countAfter (countsUp p ax.cfg dir) (countedAxis p dir ax) k = countAfter (countsUp p ax.cfg dir) ax (k + 1) := by
  have hcount : (countedAxis p dir ax).stepCount.toInt = _ := hok.boundedCount_toInt (exactCount p ax dir)
  obtain ⟨-, -, hbounds⟩ := hok
  unfold countAfter
  rw [hcount]
  simp only [countedAxis, exactCount, stepDelta]
  split
  next =>
    split
    · rw [Int.bmod_add_bmod]; congr 1; omega
    · rw [Int.sub_eq_add_neg, Int.bmod_add_bmod]; congr 1; omega
  next hstops =>
    obtain ⟨hlo, hhi⟩ := hbounds (Bool.eq_false_iff.mpr hstops)
    split <;> omega

/-- A qualifying edge in terms of the double-edge mode (R161). -/
theorem stepEdge_iff (s : State) (l : Level) :
    StepEdge s l ↔ (s.stepLvl = false ∧ l = true) ∨ (doubleEdge s = true ∧ s.stepLvl ≠ l) := by
  simp [StepEdge, doubleEdge, and_assoc]

/-- A first level that is a qualifying edge is one of those counted, and any other is not (R161). -/
theorem qualifyingEdges_of_edge {s : State} {b : Int × Nat} (h : StepEdge s (lvl b.1)) (bs : List (Int × Nat)) :
    qualifyingEdges (doubleEdge s) s.stepLvl (b :: bs) = 1 + qualifyingEdges (doubleEdge s) (lvl b.1) bs := by
  rw [qualifyingEdges, if_pos ((stepEdge_iff s _).mp h)]

theorem qualifyingEdges_of_not_edge {s : State} {b : Int × Nat} (h : ¬ StepEdge s (lvl b.1)) (bs : List (Int × Nat)) :
    qualifyingEdges (doubleEdge s) s.stepLvl (b :: bs) = qualifyingEdges (doubleEdge s) (lvl b.1) bs := by
  rw [qualifyingEdges, if_neg fun hq => h ((stepEdge_iff s _).mpr hq), Nat.zero_add]

/-- The double-edge mode depends on the parameters and the register file (10_state.md R35). -/
theorem doubleEdge_congr {s s' : State} (hpar : s'.par = s.par) (hregs : s'.regs = s.regs) :
    doubleEdge s' = doubleEdge s := by
  rw [doubleEdge, doubleEdge, hpar, reg_congr hregs]

/-- What a STEP event keeps of what the next one reads, and the level it leaves. -/
structure StepRan (l : Level) (t : Nat) (s s' : State) : Prop where
  par : s'.par = s.par
  enabled : s'.enabled = s.enabled
  dirLvl : s'.dirLvl = s.dirLvl
  double : doubleEdge s' = doubleEdge s
  stepLvl : s'.stepLvl = l
  lastT : s'.lastT = t

theorem ran_step_stepRan {s s' : State} {v : Int} {t : Nat} (h : Ran s (.step v t) s') : StepRan (lvl v) t s s' := by
  have hdouble := doubleEdge_congr (ran_own h).1 (ran_regs_of_not_framers h rfl nofun)
  cases h with
  | step _ _ ax ha hle => exact ⟨by simp, by simp [State.enabled], by simp, hdouble, by simp, rfl⟩

/-- The first STEP event of a train while enabled: the count that the law gives for the rest, from the state it leaves, is
the one it gives for the whole train (R161, R173). -/
theorem step_countAfter {s : State} {ax : AxisState} (hok : AxisOk ax) (ha : s.axis = some ax) (hen : s.enabled = true)
    (b : Int × Nat) (hle : s.lastT ≤ b.2) (bs : List (Int × Nat)) :
    ∃ s1 ax1, exec (.step b.1 b.2) s = .next s1 ∧ s1.axis = some ax1 ∧ ax1.cfg = ax.cfg ∧ ax1.maxSteps = ax.maxSteps ∧
      countAfter (countsUp s.par ax.cfg s.dirLvl) ax1 (qualifyingEdges (doubleEdge s) (lvl b.1) bs) =
        countAfter (countsUp s.par ax.cfg s.dirLvl) ax (qualifyingEdges (doubleEdge s) s.stepLvl (b :: bs)) := by
  by_cases hedge : StepEdge s (lvl b.1)
  · refine ⟨_, countedAxis s.par s.dirLvl ax, execStep_counted ha hle hedge hen, rfl, rfl, rfl, ?_⟩
    rw [qualifyingEdges_of_edge hedge, hok.countAfter_counted, Nat.cast_add, Nat.cast_one, Int.add_comm]
  · refine ⟨_, ax, execStep_tracked ha hle (fun h => hedge h.1), ha, rfl, rfl, ?_⟩
    rw [qualifyingEdges_of_not_edge hedge]

/-- A train of STEP events in order, while enabled, leaves the count that the law gives for its qualifying edges. -/
theorem stepTrain_countAfter (vs : List (Int × Nat)) : ∀ (s : State) (ax : AxisState), AxisInv s → s.axis = some ax →
    s.enabled = true → Ordered s.lastT (stepsIn vs) →
    ∃ s' o ax', runTrace (stepsIn vs) s = some (s', o) ∧ s'.axis = some ax' ∧ ax'.cfg = ax.cfg ∧
      ax'.maxSteps = ax.maxSteps ∧ ax'.stepCount.toInt =
        countAfter (countsUp s.par ax.cfg s.dirLvl) ax (qualifyingEdges (doubleEdge s) s.stepLvl vs) := by
  induction vs with
  | nil =>
    intro s ax hinv ha _ _
    exact ⟨s, [], ax, rfl, ha, rfl, rfl, ((hinv.ok ha).countAfter_zero _).symm⟩
  | cons b bs ih =>
    intro s ax hinv ha hen ⟨hle, hord⟩
    obtain ⟨s1, ax1, hexec, ha1, hcfg1, hmax1, hlaw⟩ := step_countAfter (hinv.ok ha) ha hen b hle bs
    obtain ⟨hpar, hen1, hdir, hdouble, hlvl, hlast⟩ := ran_step_stepRan (exec_ran hexec)
    obtain ⟨s', o, ax', hrun, ha', hcfg, hmax, hcount⟩ :=
      ih s1 ax1 (ran_axisInv (exec_ran hexec) hinv) ha1 (hen1.trans hen) (hlast ▸ hord)
    refine ⟨s', _, ax', runTrace_cons_of hexec hrun, ha', hcfg.trans hcfg1, hmax.trans hmax1, ?_⟩
    rw [hcount, hpar, hcfg1, hdir, hdouble, hlvl, hlaw]

/-- Settles O35: by induction on the train, one event at a time. -/
theorem stepTrainObeysCountingLaw : Obligations.StepTrainObeysCountingLaw := by
  rintro s ax vs _ hinv ha hen hord rfl
  exact stepTrain_countAfter vs s ax hinv ha hen hord

/-! ### The derived position -/

/-- Rounding a value that is not negative: the nearest integer, a half-way value up (R174). -/
theorem floor_add_half {y : ℚ} (hy : 0 ≤ y) :
    |((y + 1 / 2).floor : ℚ) - y| ≤ 1 / 2 ∧
    (|((y + 1 / 2).floor : ℚ) - y| = 1 / 2 → |y| < |((y + 1 / 2).floor : ℚ)|) := by
  have hlow : ((y + 1 / 2).floor : ℚ) ≤ y + 1 / 2 := Rat.floor_le _
  have hhigh : y + 1 / 2 < ((y + 1 / 2).floor : ℚ) + 1 := by exact_mod_cast Rat.lt_floor_add_one _
  refine ⟨abs_le.mpr ⟨by linarith, by linarith⟩, fun hhalf => ?_⟩
  obtain hup | hdown := (abs_eq (by norm_num)).mp hhalf
  · rw [abs_of_nonneg hy]
    exact lt_of_lt_of_le (by linarith) (le_abs_self _)
  · linarith

/-- Rounding gives the nearest integer, half-way values away from zero; a negative value is rounded as its opposite
(R174). -/
theorem roundHalfAway_nearest (y : ℚ) :
    |(roundHalfAway y : ℚ) - y| ≤ 1 / 2 ∧
    (|(roundHalfAway y : ℚ) - y| = 1 / 2 → |y| < |(roundHalfAway y : ℚ)|) := by
  unfold roundHalfAway
  split
  next hy => exact floor_add_half hy
  next hy =>
    have hopp := floor_add_half (y := -y) (by linarith)
    have hdist (r : ℚ) : |-r - y| = |r - -y| := by rw [← abs_neg, neg_sub, sub_neg_eq_add, sub_neg_eq_add, add_comm]
    rw [Int.cast_neg, hdist, abs_neg, ← abs_neg y]
    exact hopp

/-- Settles O40: PosToStep rounds the scaled position. -/
theorem posToStepIsNearest : Obligations.PosToStepIsNearest :=
  fun c x => roundHalfAway_nearest (x * c.stepsPerMM)

/-- The scale of a good axis is not 0 (43_actions_config.md R206). -/
theorem AxisOk.stepsPerMM_pos {ax : AxisState} (hok : AxisOk ax) : 0 < ax.cfg.stepsPerMM := by
  obtain ⟨hv, -, -⟩ := hok
  simp only [configValid, Bool.and_eq_true, decide_eq_true_eq] at hv
  exact hv.1.1

/-- The snapshot of a configured state shows the derived position (R178). -/
theorem snapshot_position {s : State} {ax : AxisState} (ha : s.axis = some ax) :
    s.snapshot.position = axisPosition ax := by
  simp [State.snapshot, State.position, ha]

/-- Settles O41: the recorded snapshot is that of the post-event state, where the scale is not 0. -/
theorem snapshotPositionIsExact : Obligations.SnapshotPositionIsExact := by
  intro i s s' t ax hinv ht h ha
  have hran := exec_ran h
  obtain ⟨-, hsnap⟩ := ran_recorded ht hran
  have hok : AxisOk ax := (ran_axisInv hran hinv).ok ha
  have hscale : (ax.cfg.stepsPerMM : ℚ) ≠ 0 := Int.cast_ne_zero.mpr hok.stepsPerMM_pos.ne'
  rw [hsnap, snapshot_position ha, axisPosition, div_mul_cancel₀ _ hscale]

end Sys2Proof.Machine
end

section
/-! The statements on the scripted actions and CONFIG (43_actions_config.md): what each action does and keeps (R200 to R204,
R208, R209), that repeating one has no further effect (90_conflicts.md C4), and what CONFIG sets up or refuses (R205 to
R207). -/

namespace Sys2Proof.Machine
open Sys2Proof

/-! ### What an action answers -/

/-- The status that the action of a row returns (R200, R201); read for the four ACTION rows only. -/
def actionStatus : Row → ActionStatus
  | .actionInvalid => .error
  | _ => .finished

/-- What the action of a row does to the block (R201 to R204): nothing for an unknown action, nor for a row that is none. -/
def actionEffect : Row → State → State
  | .toggleStall => forceStall
  | .setDiag => forceDiag
  | .resetDiag => releaseDiag
  | _ => id

/-- The state after the action of a row at time `t`. -/
def afterAction (r : Row) (t : Nat) (s : State) : State :=
  finish t (returns (actionStatus r) (actionEffect r (clearOut s)))

/-- A configured block answers an action in order by its row alone: neither its arguments nor an unknown id is read (R200). -/
theorem exec_action {i : Instr} {s : State} {t : Nat} (hi : i.isAction = true) (ht : i.time? = some t)
    (hready : Ready s t) : exec i s = .next (afterAction i.row t s) := by
  obtain ⟨ax, ha, hle⟩ := ready_axis hready
  cases i with
  | toggleStall g _ => cases ht; exact ran_exec (.toggleStall g t ax ha hle)
  | setDiag g _ => cases ht; exact ran_exec (.setDiag g t ax ha hle)
  | resetDiag g _ => cases ht; exact ran_exec (.resetDiag g t ax ha hle)
  | actionInvalid id g _ => cases ht; exact ran_exec (.actionInvalid id g t ax ha hle)
  | _ => cases hi

/-- An action that is handled came in order to a configured block, and answered by its row. -/
theorem ran_action {i : Instr} {s s' : State} (h : Ran s i s') (hi : i.isAction = true) :
    ∃ t, Ready s t ∧ s' = afterAction i.row t s := by
  cases h with
  | toggleStall g t ax ha hle => exact ⟨t, ⟨configured_of_axis ha, hle⟩, rfl⟩
  | setDiag g t ax ha hle => exact ⟨t, ⟨configured_of_axis ha, hle⟩, rfl⟩
  | resetDiag g t ax ha hle => exact ⟨t, ⟨configured_of_axis ha, hle⟩, rfl⟩
  | actionInvalid id g t ax ha hle => exact ⟨t, ⟨configured_of_axis ha, hle⟩, rfl⟩
  | _ => cases hi

/-! ### What an action keeps -/

/-- Whatever the row, the action's effect is on `sg`, `stst`, `ovr`, `diag` and the outputs alone (R208). -/
theorem afterAction_frame (r : Row) (t : Nat) (s : State) :
    SameFramer s (afterAction r t s) ∧ (afterAction r t s).regs = s.regs ∧ SameIntegrator s (afterAction r t s) ∧
    SameOwn s (afterAction r t s) ∧ (afterAction r t s).fReset = s.fReset ∧ (afterAction r t s).fDrvErr = s.fDrvErr ∧
    (afterAction r t s).minOut = s.minOut ∧ (afterAction r t s).posOut = s.posOut := by
  cases r <;> and_intros <;> rfl

/-- Settles O47: the state is the one after its row's action. -/
theorem actionsKeepInFlightState : Obligations.ActionsKeepInFlightState := by
  intro i s s' hi h
  obtain ⟨t, -, rfl⟩ := ran_action (exec_ran h) hi
  exact afterAction_frame i.row t s

/-! ### The four actions -/

/-- Settles O42: the action is the model's `forceStall`. -/
theorem toggleStallForcesStallGuard : Obligations.ToggleStallForcesStallGuard := by
  intro s args t hready
  obtain ⟨hframer, hregs, hint, hown, hreset, hdrv, hmin, hpos⟩ := afterAction_frame .toggleStall t s
  exact ⟨_, exec_action (i := .toggleStall args t) rfl rfl hready, rfl, rfl, hreset, hdrv, rfl, hframer, hregs, hint,
    ⟨rfl, hmin, hpos⟩, hown, rfl, rfl, recorded_finish t _⟩

/-- Settles O43: the action is the model's `forceDiag`, which emits the change of DIAG. -/
theorem setDiagRaisesDiag : Obligations.SetDiagRaisesDiag := by
  intro s args t hready
  obtain ⟨hframer, hregs, hint, hown, hreset, hdrv, hmin, hpos⟩ := afterAction_frame .setDiag t s
  exact ⟨_, exec_action (i := .setDiag args t) rfl rfl hready, rfl, rfl, rfl, hreset, hdrv, rfl, rfl, hmin, hpos,
    hframer, hregs, hint, hown, rfl, recorded_finish t _⟩

/-- The DIAG events of a change to 0. -/
theorem diagChange_false (l : Level) : diagChange l false = if l = true then [.diag false] else [] := by
  cases l <;> rfl

/-- Settles O44: the action is the model's `releaseDiag`, which emits the change of DIAG. -/
theorem resetDiagClearsIndications : Obligations.ResetDiagClearsIndications := by
  intro s args t hready
  obtain ⟨hframer, hregs, hint, hown, hreset, hdrv, hmin, hpos⟩ := afterAction_frame .resetDiag t s
  exact ⟨_, exec_action (i := .resetDiag args t) rfl rfl hready, rfl, rfl, rfl, rfl, diagChange_false s.diag, hreset,
    hdrv, hmin, hpos, hframer, hregs, hint, hown, rfl, recorded_finish t _⟩

/-- Settles O45: an unknown action has no effect but the status. -/
theorem unknownActionReturnsError : Obligations.UnknownActionReturnsError := by
  intro s id args t hready
  exact ⟨_, exec_action (i := .actionInvalid id args t) rfl rfl hready, rfl, rfl, sameFramer_finish_clearOut t s, rfl,
    sameOutsideFramer_refl s, recorded_finish t _⟩

/-! ### Repeating an action -/

/-- An action's effect on the state it has left is none: its flags and DIAG have the values it gives them, so no change is
emitted (R202 to R204). -/
theorem actionEffect_afterAction (r : Row) (t : Nat) (s : State) :
    actionEffect r (clearOut (afterAction r t s)) = clearOut (afterAction r t s) := by
  cases r <;> rfl

/-- An event without effect that returns the status already there changes only the outputs and the time stamp, where the
snapshot is that of the state. -/
theorem finish_returns_clearOut {s : State} {r : ActionStatus} (hret : s.ret = some r) (hsnap : s.snap = s.snapshot)
    (t : Nat) : finish t (returns r (clearOut s)) = { s with out := [], lastT := t } := by
  have hview : (returns r (clearOut s)).snapshot = s.snapshot := rfl
  rw [finish, hview, ← hsnap, returns, ← hret]
  rfl

/-- The action of a row once more, at any time, changes only the outputs and the time stamp. -/
theorem afterAction_afterAction (r : Row) (t t' : Nat) (s : State) :
    afterAction r t' (afterAction r t s) = { afterAction r t s with out := [], lastT := t' } := by
  have hret : (afterAction r t s).ret = some (actionStatus r) := rfl
  obtain ⟨-, hsnap⟩ : Recorded t (afterAction r t s) := recorded_finish t _
  rw [afterAction, actionEffect_afterAction]
  exact finish_returns_clearOut hret hsnap t'

/-- An action leaves the block configured. -/
theorem afterAction_configured (r : Row) (t : Nat) (s : State) : (afterAction r t s).configured = s.configured := by
  obtain ⟨-, -, ⟨haxis, -⟩, -⟩ := afterAction_frame r t s
  rw [State.configured, haxis, State.configured]

/-- Settles O46: both instructions are actions of one row, and the block is still configured for the second. -/
theorem repeatedActionIsIdempotent : Obligations.RepeatedActionIsIdempotent := by
  intro i j s s1 t hi h hrow ht hle
  obtain ⟨t0, hready, rfl⟩ := ran_action (exec_ran h) hi
  have hj : j.isAction = true := by rwa [Instr.isAction, hrow]
  have hready1 : Ready (afterAction i.row t0 s) t := ⟨by rw [afterAction_configured, hready.1], hle⟩
  rw [exec_action hj ht hready1, hrow, afterAction_afterAction]

/-! ### The returned status -/

/-- What an event leaves as the returned status: an action that of its row, any other event none (R200). -/
theorem ran_ret {i : Instr} {s s' : State} {t : Nat} (ht : i.time? = some t) (h : Ran s i s') :
    s'.ret = if i.isAction then some (actionStatus i.row) else none := by
  cases h with
  | read | write => cases ht
  | toggleStall | setDiag | resetDiag | actionInvalid => rfl
  | _ => simp [Instr.isAction, Instr.row]

/-- No action's status is Waiting (R209). -/
theorem actionStatus_ne_waiting (r : Row) : actionStatus r ≠ .waiting := by
  cases r <;> decide

/-- Settles O48: an action returns the status of its row, and every other event none. -/
theorem noActionWaits : Obligations.NoActionWaits := by
  intro i s s' t ht h
  rw [ran_ret ht (exec_ran h)]
  cases i.isAction with
  | true => simp [actionStatus_ne_waiting]
  | false => simp

/-! ### Which records are valid -/

/-- A start position is valid when it is finite and, without end-stops, its step count fits in 32 bits (R206). -/
theorem startValid_iff (c : AxisConfig) :
    startValid c = true ↔ ∃ q, c.startMM = .finite q ∧
      (c.noEndStops = true → -(2 ^ 31) ≤ posToStep c q ∧ posToStep c q ≤ 2 ^ 31 - 1) := by
  unfold startValid
  cases c.startMM with
  | finite q => cases c.noEndStops <;> simp
  | nonFinite => simp

/-- A record is valid when its scale, its travel and its start position are (R206). -/
theorem configValid_iff (c : AxisConfig) :
    configValid c = true ↔ 1 ≤ c.stepsPerMM ∧ 0 ≤ c.maxMM ∧ c.maxMM * c.stepsPerMM ≤ 2 ^ 31 - 1 ∧
      ∃ q, c.startMM = .finite q ∧
        (c.noEndStops = true → -(2 ^ 31) ≤ posToStep c q ∧ posToStep c q ≤ 2 ^ 31 - 1) := by
  rw [configValid, Bool.and_eq_true, decide_eq_true_iff, startValid_iff, travelBound, and_assoc, and_assoc]

/-! ### CONFIG -/

/-- A CONFIG in order is refused once configured, whatever its record (R207). -/
theorem execConfig_configured {s : State} {t : Nat} (c : AxisConfig) (hconf : s.configured = true) (hle : s.lastT ≤ t) :
    exec (.config c t) s = .refused .reconfigure := by
  obtain ⟨ax, ha⟩ := Option.isSome_iff_exists.mp hconf
  simp [exec, execConfig, arrive_of_le hle, ha]

/-- A CONFIG in order with an invalid record is refused before the block is configured (R206). -/
theorem execConfig_invalid {s : State} {c : AxisConfig} {t : Nat} (hconf : s.configured = false)
    (hv : configValid c = false) (hle : s.lastT ≤ t) : exec (.config c t) s = .refused .badConfig := by
  simp [exec, execConfig, arrive_of_le hle, axis_none_of_not_configured hconf, hv]

/-- Settles O50: the model's test is the range of R206, and a record that fails it is refused. -/
theorem validRecordRange : Obligations.ValidRecordRange :=
  fun c => ⟨configValid_iff c, fun _ _ hle hconf hv => execConfig_invalid hconf hv hle⟩

/-- The step count that a valid record starts with: its start position in steps, which needs no clamping without end-stops
(R175, R205). -/
theorem initialAxis_stepCount_toInt {c : AxisConfig} {q : ℚ} (hv : configValid c = true) (hq : c.startMM = .finite q) :
    (initialAxis c).stepCount.toInt =
      if c.noEndStops = true then posToStep c q else min (max (posToStep c q) 0) (c.maxMM * c.stepsPerMM) := by
  obtain ⟨hbound0, hbound⟩ := travelBound_range hv
  have hnat : ((travelBound c).toNat : Int) = travelBound c := Int.toNat_of_nonneg hbound0
  have hstart : startStep c = posToStep c q := by simp only [startStep, hq]
  simp only [initialAxis, hstart, hnat]
  split
  next hfree =>
    obtain ⟨-, -, -, q', hq', hrange⟩ := (configValid_iff c).mp hv
    obtain rfl : q = q' := RealArg.finite.inj (hq.symm.trans hq')
    obtain ⟨hlo, hhi⟩ := hrange hfree
    exact toInt_ofInt_of_range hlo hhi
  next hstops =>
    obtain ⟨hlo, hhi⟩ := clamp_mem (x := posToStep c q) hbound0
    exact toInt_ofInt_of_range (by omega) (by omega)

/-- Settles O49: the axis is the model's `initialAxis`, published as POSITION and MIN, and the other clauses are the
refusals. -/
theorem configSetsUpAxis : Obligations.ConfigSetsUpAxis := by
  intro s c t hle
  refine ⟨fun hconf hv => ?_, fun hconf _ => execConfig_configured c hconf hle,
    fun hconf _ => .inl (execConfig_configured c hconf hle), fun hconf hv => execConfig_invalid hconf hv hle⟩
  obtain ⟨-, -, -, q, hq, -⟩ := (configValid_iff c).mp hv
  obtain ⟨hmax, -⟩ := initialAxis_inv hv
  have hran : Ran s (.config c t) _ := .config c t (axis_none_of_not_configured hconf) hle hv
  obtain ⟨hframer, hregs, hown, hrec⟩ := ran_integrator_frame hran rfl nofun rfl
  exact ⟨_, initialAxis c, q, ran_exec hran, rfl, hq, rfl, hmax, initialAxis_stepCount_toInt hv hq, rfl, rfl, rfl, rfl,
    rfl, hframer, hregs, ⟨rfl, rfl, rfl, rfl, rfl⟩, rfl, rfl, rfl, rfl, hown, rfl, hrec⟩

/-! ### Before CONFIG -/

/-- An event that a configured block would handle is refused without one (R207). -/
theorem handle_of_unconfigured {s : State} {t : Nat} (ha : s.axis = none) (hle : s.lastT ≤ t)
    (f : AxisState → State → State) : handle t s f = .refused .notConfigured :=
  arriveConfigured_of_unconfigured ha hle _

/-- An event in order that needs a configured block is refused without one (R207). -/
theorem exec_unconfigured {i : Instr} {s : State} {t : Nat} (hi : i.needsConfig = true) (ht : i.time? = some t)
    (hconf : s.configured = false) (hle : s.lastT ≤ t) : exec i s = .refused .notConfigured := by
  have ha := axis_none_of_not_configured hconf
  cases i with
  | read | write | config | reset => cases hi
  | timeout => cases ht; simp only [exec, execTimeout, arriveConfigured_of_unconfigured ha hle]
  | toggleStall | setDiag | resetDiag =>
    cases ht; simp only [exec, execToggleStall, execSetDiag, execResetDiag, handle_of_unconfigured ha hle]
  | _ => cases ht; exact handle_of_unconfigured ha hle _

/-- Settles O51: the first two clauses are the refusals of R207, and every instruction but RESET keeps the block
configured. -/
theorem unconfiguredEventsAreRefused : Obligations.UnconfiguredEventsAreRefused := by
  intro i s t ht hle
  refine ⟨fun hi hconf => exec_unconfigured hi ht hconf hle, fun hi hconf => ?_, fun s' h hconf hlost => ?_⟩
  · cases i with
    | config c _ => cases ht; exact execConfig_configured c hconf hle
    | _ => cases hi
  · by_contra hrow
    exact Bool.eq_false_iff.mp hlost (ran_configured (exec_ran h) hrow hconf)

end Sys2Proof.Machine
end

section
/-! The statements on exceptions and the host contract (60_exceptions.md): which events drive which output port, and with
which value (R225), that the output levels are those last emitted (R226), and that time never goes back (R238). -/

namespace Sys2Proof.Machine
open Sys2Proof

/-! ### What the events of a list carry, port by port -/

@[simp] theorem diagLevels_append (o o' : List OutEvent) : diagLevels (o ++ o') = diagLevels o ++ diagLevels o' :=
  List.filterMap_append

@[simp] theorem minLevels_append (o o' : List OutEvent) : minLevels (o ++ o') = minLevels o ++ minLevels o' :=
  List.filterMap_append

@[simp] theorem positionValues_append (o o' : List OutEvent) :
    positionValues (o ++ o') = positionValues o ++ positionValues o' := List.filterMap_append

@[simp] theorem bytesOut_append (o o' : List OutEvent) : bytesOut (o ++ o') = bytesOut o ++ bytesOut o' :=
  List.filterMap_append

/-- No event carries nothing. -/
@[simp] theorem ports_nil : diagLevels [] = [] ∧ minLevels [] = [] ∧ positionValues [] = [] ∧ bytesOut [] = [] :=
  ⟨rfl, rfl, rfl, rfl⟩

/-- A byte out is on its own port alone. -/
@[simp] theorem ports_spiByteOut (b : Byte) :
    diagLevels [.spiByteOut b] = [] ∧ minLevels [.spiByteOut b] = [] ∧ positionValues [.spiByteOut b] = [] ∧
    bytesOut [.spiByteOut b] = [b] := ⟨rfl, rfl, rfl, rfl⟩

/-- POSITION and MIN together, as CONFIG and a counted step emit them (42_step_integrator.md R171). -/
def countEvents (n : BitVec 32) : List OutEvent := [.position n, .min (minLevel n)]

@[simp] theorem ports_countEvents (n : BitVec 32) :
    diagLevels (countEvents n) = [] ∧ minLevels (countEvents n) = [minLevel n] ∧
    positionValues (countEvents n) = [n] ∧ bytesOut (countEvents n) = [] := ⟨rfl, rfl, rfl, rfl⟩

/-- A change of DIAG is on its own port alone. -/
@[simp] theorem ports_diagChange (old new : Level) :
    diagLevels (diagChange old new) = (if new = old then [] else [new]) ∧ minLevels (diagChange old new) = [] ∧
    positionValues (diagChange old new) = [] ∧ bytesOut (diagChange old new) = [] := by
  rw [diagChange_eq]
  split <;> exact ⟨rfl, rfl, rfl, rfl⟩

/-! ### What an instruction does to the output ports -/

/-- The instruction sends a byte: BYTE_IN while Receiving (40_spi_framer.md R106). -/
def ShiftsOut (s : State) (i : Instr) : Prop := i.row = .byteIn ∧ s.receiving = true

/-- The instruction emits POSITION and MIN: CONFIG or a counted step (R225). -/
def Publishes (s : State) (i : Instr) : Prop := i.row = .config ∨ CountedStep s i

/-- The rows but STEP that may change DIAG (R225). -/
def DrivesDiag (i : Instr) : Prop := i.row = .timeout ∨ i.row = .setDiag ∨ i.row = .resetDiag

/-- What an instruction can have done to the output ports and their levels: the rows of R225, silence otherwise, and the
frame commands and RESET, which emit nothing of their own. -/
inductive PortsDriven (s : State) (i : Instr) (s' : State) : Prop where
  | frame (hi : i.isFrame = true) (haxis : s'.axis = s.axis) (hsame : SameOutputs s s')
  | quiet (hbyte : ¬ ShiftsOut s i) (hcount : ¬ Publishes s i) (haxis : s'.axis = s.axis) (hout : s'.out = [])
      (hsame : SameOutputs s s')
  | byteOut (hbyte : ShiftsOut s i) (haxis : s'.axis = s.axis)
      (hout : s'.out = [.spiByteOut (s.shout.extractLsb' 32 8)]) (hsame : SameOutputs s s')
  | diag (hi : DrivesDiag i) (haxis : s'.axis = s.axis) (hout : s'.out = diagChange s.diag s'.diag)
      (hmin : s'.minOut = s.minOut) (hpos : s'.posOut = s.posOut)
  | published (ax : AxisState) (hcount : Publishes s i) (haxis : s'.axis = some ax)
      (hconfig : i.row = .config → s'.diag = s.diag)
      (hout : s'.out = diagChange s.diag s'.diag ++ countEvents ax.stepCount)
      (hmin : s'.minOut = minLevel ax.stepCount) (hpos : s'.posOut = ax.stepCount)
  | reset (hi : i.row = .reset) (haxis : s'.axis = none) (hout : s'.out = []) (hmin : s'.minOut = false)
      (hpos : s'.posOut = 0)

theorem CountedStep.row_eq {s : State} {i : Instr} (h : CountedStep s i) : i.row = .step := by
  obtain ⟨v, t, rfl, -⟩ := h
  rfl

/-- Only CONFIG and STEP emit POSITION and MIN. -/
theorem Publishes.row_cases {s : State} {i : Instr} (h : Publishes s i) : i.row = .config ∨ i.row = .step :=
  h.imp_right CountedStep.row_eq

theorem not_publishes_of_row_ne {s : State} {i : Instr} (hc : i.row ≠ .config) (hs : i.row ≠ .step) :
    ¬ Publishes s i := fun h => h.row_cases.elim hc hs

theorem not_shiftsOut_of_row_ne {s : State} {i : Instr} (h : i.row ≠ .byteIn) : ¬ ShiftsOut s i := fun hb => h hb.1

theorem DrivesDiag.row_ne {i : Instr} (h : DrivesDiag i) {r : Row} (hr : r ∉ [Row.timeout, .setDiag, .resetDiag]) :
    i.row ≠ r := by
  rintro rfl
  exact hr (by simpa [DrivesDiag] using h)

/-- Every instruction that answers drives the ports in one of those ways; BYTE_IN does so by the framer's state (R106, R107)
and STEP by being counted or only tracked (42_step_integrator.md R160). -/
theorem ran_portsDriven {i : Instr} {s s' : State} (h : Ran s i s') : PortsDriven s i s' := by
  cases h with
  | read | write => exact .frame rfl (by simp) (by simp [SameOutputs])
  | byteIn v t ax ha hle =>
    by_cases hrecv : s.receiving = true
    · have hshift : byteArrives (trunc8 v) (clearOut s) = shiftByte (trunc8 v) (clearOut s) := if_pos hrecv
      exact .byteOut ⟨rfl, hrecv⟩ (by simp) (by simp [hshift]) (by simp [SameOutputs])
    · have hidle : byteArrives (trunc8 v) (clearOut s) = clearOut s := if_neg hrecv
      exact .quiet (fun hb => hrecv hb.2) (not_publishes_of_row_ne nofun nofun) (by simp) (by simp [hidle])
        (by simp [SameOutputs])
  | step v t ax ha hle =>
    obtain ⟨hedge, hen, hs⟩ | ⟨hnot, hs⟩ := stepArrives_cases (lvl v) t ax (clearOut s)
    · rw [hs]
      exact .published (countedAxis s.par s.dirLvl ax) (.inr ⟨v, t, rfl, hedge, hen⟩) rfl nofun
        (List.append_assoc _ _ _) rfl rfl
    · rw [hs]
      refine .quiet (not_shiftsOut_of_row_ne nofun) ?_ rfl rfl ⟨rfl, rfl, rfl⟩
      rintro (⟨⟨⟩⟩ | ⟨_, _, ⟨⟩, hedge, hen⟩)
      exact hnot.elim (absurd hedge) fun hoff => absurd hen (Bool.eq_false_iff.mp hoff)
  | timeout t ax ha hle hd => exact .diag (.inl rfl) rfl rfl rfl rfl
  | setDiag g t ax ha hle => exact .diag (.inr (.inl rfl)) rfl rfl rfl rfl
  | resetDiag g t ax ha hle => exact .diag (.inr (.inr rfl)) rfl rfl rfl rfl
  | config c t ha hle hv =>
    exact .published (initialAxis c) (.inl rfl) rfl (fun _ => rfl) (by simp [countEvents]) rfl rfl
  | reset t hle => exact .reset rfl rfl rfl rfl rfl
  | _ =>
    exact .quiet (not_shiftsOut_of_row_ne nofun) (not_publishes_of_row_ne nofun nofun) (by simp) (by simp)
      (by simp [SameOutputs])

/-- An event is no frame command. -/
theorem isFrame_of_time {i : Instr} {t : Nat} (ht : i.time? = some t) : i.isFrame = false := by
  cases i with
  | read | write => cases ht
  | _ => rfl

/-- Settles O55: each way of driving the ports gives the values of the one event it is for, and silence on the others. -/
theorem portsAreDrivenByTheirEvents : Obligations.PortsAreDrivenByTheirEvents := by
  intro i s s' t ht h
  cases ran_portsDriven (exec_ran h) with
  | frame hi haxis hsame => simp [isFrame_of_time ht] at hi
  | quiet hbyte hcount haxis hout hsame =>
    obtain ⟨hdiag, -, -⟩ := hsame
    simp only [hout, ports_nil]
    exact ⟨(if_neg hbyte).symm, fun _ => (if_pos hdiag).symm, by simp, by simp, fun hc => absurd hc hcount⟩
  | byteOut hbyte haxis hout hsame =>
    obtain ⟨hdiag, -, -⟩ := hsame
    have hcount : ¬ Publishes s i := not_publishes_of_row_ne (by simp [hbyte.1]) (by simp [hbyte.1])
    simp only [hout, ports_spiByteOut]
    exact ⟨(if_pos hbyte).symm, fun _ => (if_pos hdiag).symm, by simp, by simp, fun hc => absurd hc hcount⟩
  | diag hi haxis hout hmin hpos =>
    have hcount : ¬ Publishes s i := not_publishes_of_row_ne (hi.row_ne (by decide)) (hi.row_ne (by decide))
    have hbyte : ¬ ShiftsOut s i := not_shiftsOut_of_row_ne (hi.row_ne (by decide))
    simp only [hout, ports_diagChange]
    exact ⟨(if_neg hbyte).symm, fun _ => trivial, fun _ => hi.imp_right (.imp_right .inl), by simp,
      fun hc => absurd hc hcount⟩
  | published ax hcount haxis hconfig hout hmin hpos =>
    have hbyte : ¬ ShiftsOut s i := not_shiftsOut_of_row_ne fun hrow => by simpa [hrow] using hcount.row_cases
    simp only [hout, bytesOut_append, diagLevels_append, positionValues_append, minLevels_append, ports_diagChange,
      ports_countEvents, List.append_nil, List.nil_append]
    refine ⟨(if_neg hbyte).symm, fun _ => trivial, fun hchange => ?_, fun _ => hcount, fun _ => ⟨ax, haxis, rfl, rfl⟩⟩
    obtain hi | hstep := hcount
    · exact absurd (if_pos (hconfig hi)) hchange
    · exact .inr (.inr (.inr hstep))
  | reset hi haxis hout hmin hpos =>
    have hbyte : ¬ ShiftsOut s i := not_shiftsOut_of_row_ne (by simp [hi])
    have hcount : ¬ Publishes s i := not_publishes_of_row_ne (by simp [hi]) (by simp [hi])
    simp only [hout, ports_nil]
    exact ⟨(if_neg hbyte).symm, fun hr => absurd hi hr, by simp, by simp, fun hc => absurd hc hcount⟩

/-! ### The output levels along a run -/

/-- The levels in `s'` are those last emitted in `o`, or the ones of `s` (R226). -/
def LevelsFollow (s s' : State) (o : List OutEvent) : Prop :=
  s'.diag = (diagLevels o).getLast?.getD s.diag ∧ s'.minOut = (minLevels o).getLast?.getD s.minOut ∧
  s'.posOut = (positionValues o).getLast?.getD s.posOut

theorem LevelsFollow.append {s s1 s2 : State} {o o' : List OutEvent} (h1 : LevelsFollow s s1 o)
    (h2 : LevelsFollow s1 s2 o') : LevelsFollow s s2 (o ++ o') := by
  obtain ⟨hdiag1, hmin1, hpos1⟩ := h1
  obtain ⟨hdiag2, hmin2, hpos2⟩ := h2
  simp only [LevelsFollow, diagLevels_append, minLevels_append, positionValues_append, List.getLast?_append,
    Option.getD_or]
  exact ⟨hdiag1 ▸ hdiag2, hmin1 ▸ hmin2, hpos1 ▸ hpos2⟩

/-- The level of DIAG is the one last emitted where a change is what was emitted. -/
theorem getD_getLast?_diagChange (old new : Level) :
    (diagLevels (diagChange old new)).getLast?.getD old = new := by
  obtain ⟨rfl, he⟩ | ⟨-, he⟩ := diagChange_cases old new <;> rw [he] <;> rfl

/-- Every event but RESET emits what it writes to a level. -/
theorem ran_levelsFollow {i : Instr} {s s' : State} (h : Ran s i s') (hi : i.isFrame = false) (hr : i.row ≠ .reset) :
    LevelsFollow s s' s'.out := by
  cases ran_portsDriven h with
  | frame hf haxis hsame => simp [hi] at hf
  | quiet hbyte hcount haxis hout hsame => rw [hout]; exact hsame
  | byteOut hbyte haxis hout hsame => rw [hout]; exact hsame
  | diag hdrives haxis hout hmin hpos =>
    rw [hout]
    exact ⟨(getD_getLast?_diagChange _ _).symm, by simpa using hmin, by simpa using hpos⟩
  | published ax hcount haxis hconfig hout hmin hpos =>
    have hdiag := getD_getLast?_diagChange s.diag s'.diag
    rw [hout]
    exact ⟨by simpa using hdiag.symm, by simpa using hmin, by simpa using hpos⟩
  | reset hrow haxis hout hmin hpos => exact absurd hrow hr

/-- Settles O54: by induction on the run, one event at a time. -/
theorem outputLevelsFollowEmissions : Obligations.OutputLevelsFollowEmissions := by
  intro is
  induction is with
  | nil =>
    rintro s _ _ - ⟨⟩
    exact ⟨rfl, rfl, rfl⟩
  | cons i is ih =>
    intro s s' o hall hrun
    obtain ⟨s1, o1, hexec, hrest, rfl⟩ := runTrace_cons hrun
    obtain ⟨hi, hr⟩ := hall i List.mem_cons_self
    have hfirst : LevelsFollow s s1 s1.out := ran_levelsFollow (exec_ran hexec) hi hr
    exact hfirst.append (ih s1 s' o1 (fun j hj => hall j (List.mem_cons_of_mem i hj)) hrest)

/-! ### The output invariant -/

/-- The invariant reads the axis and the two levels alone. -/
theorem OutputInv.of_eq {s s' : State} (hinv : OutputInv s) (haxis : s'.axis = s.axis) (hmin : s'.minOut = s.minOut)
    (hpos : s'.posOut = s.posOut) : OutputInv s' := by
  unfold OutputInv
  rw [haxis, hmin, hpos]
  exact hinv

/-- A configured block whose levels are those of its step count meets the invariant. -/
theorem outputInv_of_axis_some {s : State} {ax : AxisState} (haxis : s.axis = some ax)
    (hmin : s.minOut = minLevel ax.stepCount) (hpos : s.posOut = ax.stepCount) : OutputInv s := by
  unfold OutputInv
  rw [haxis]
  exact ⟨hpos, hmin⟩

/-- An unconfigured block whose levels are 0 meets it. -/
theorem outputInv_of_axis_none {s : State} (haxis : s.axis = none) (hmin : s.minOut = false) (hpos : s.posOut = 0) :
    OutputInv s := by
  unfold OutputInv
  rw [haxis]
  exact ⟨hpos, hmin⟩

/-- Every instruction keeps the invariant: where it changes the axis it publishes the count, or is RESET. -/
theorem ran_outputInv {i : Instr} {s s' : State} (h : Ran s i s') (hinv : OutputInv s) : OutputInv s' := by
  cases ran_portsDriven h with
  | frame hi haxis hsame => obtain ⟨-, hmin, hpos⟩ := hsame; exact hinv.of_eq haxis hmin hpos
  | quiet hbyte hcount haxis hout hsame => obtain ⟨-, hmin, hpos⟩ := hsame; exact hinv.of_eq haxis hmin hpos
  | byteOut hbyte haxis hout hsame => obtain ⟨-, hmin, hpos⟩ := hsame; exact hinv.of_eq haxis hmin hpos
  | diag hi haxis hout hmin hpos => exact hinv.of_eq haxis hmin hpos
  | published ax hcount haxis hconfig hout hmin hpos => exact outputInv_of_axis_some haxis hmin hpos
  | reset hi haxis hout hmin hpos => exact outputInv_of_axis_none haxis hmin hpos

/-- Settles O56: every instruction keeps the invariant, which reads neither the inbox nor the outputs of a step. -/
theorem stepKeepsOutputInvariant : Obligations.StepKeepsOutputInvariant :=
  fun _ _ => step_keeps (fun _ _ hinv => hinv) (fun _ hinv => hinv) ran_outputInv

/-! ### Time never goes back -/

theorem handle_of_lt {t : Nat} {s : State} (h : t < s.lastT) (f : AxisState → State → State) :
    handle t s f = .refused .timeBackwards := arriveConfigured_of_lt h _

/-- An event whose time stamp goes back is refused for that reason, RESET included (R238). -/
theorem exec_of_lt {i : Instr} {s : State} {t : Nat} (ht : i.time? = some t) (hlt : t < s.lastT) :
    exec i s = .refused .timeBackwards := by
  cases i with
  | read | write => cases ht
  | config | reset => cases ht; simp only [exec, execConfig, execReset, arrive_of_lt hlt]
  | timeout => cases ht; simp only [exec, execTimeout, arriveConfigured_of_lt hlt]
  | toggleStall | setDiag | resetDiag =>
    cases ht; simp only [exec, execToggleStall, execSetDiag, execResetDiag, handle_of_lt hlt]
  | _ => cases ht; exact handle_of_lt hlt _

/-- Settles O52: a time stamp that goes back is refused on arrival, before anything else is looked at, and every handled
event records its own. -/
theorem backwardTimeIsRefused : Obligations.BackwardTimeIsRefused := by
  intro i s t ht
  refine ⟨exec_of_lt ht, fun s' h => ?_⟩
  obtain ⟨hlast, -⟩ := ran_recorded ht (exec_ran h)
  exact hlast

end Sys2Proof.Machine
end

section
/-! The statements on reset (70_reset_and_hazards.md): RESET gives every field its value (R250), and the first state is one
that RESET produces (R253). -/

namespace Sys2Proof.Machine
open Sys2Proof

/-- RESET in order is handled in every state, configured or not. -/
theorem exec_reset {s : State} {t : Nat} (hle : s.lastT ≤ t) : exec (.reset t) s = .next (resetBlock t (clearOut s)) :=
  ran_exec (.reset t hle)

/-- The word after RESET is 0 at an UNIMPL address and `RESET_VALUE` at every other (R250). -/
theorem resetWord_eq_ite (p : Params) (a : Addr) : resetWord p a = if regClass p a = .unimpl then 0 else resetValue p a := by
  unfold resetWord
  cases regClass p a <;> rfl

/-- The registers after RESET hold the reset words. -/
theorem resetBlock_reg (t : Nat) (s : State) (a : Addr) : (resetBlock t s).reg a = resetWord s.par a := resetRegs_get s.par a

/-- Settles O3: RESET is the model's `resetBlock`, whose fields are those of R250 and whose registers hold the reset words. -/
theorem resetRestoresEveryField : Obligations.ResetRestoresEveryField := by
  intro s t hle
  have hexec := exec_reset hle
  have hown : SameOwn s (resetBlock t (clearOut s)) := ran_own (exec_ran hexec)
  refine ⟨_, hexec, ?_⟩
  simp [resetBlock_reg, resetWord_eq_ite, State.configured, hown]

/-- RESET forgets everything but the parameters and the deliveries still to be handled. -/
theorem resetBlock_clearOut_congr {s s' : State} (t : Nat) (h : SameOwn s s') :
    resetBlock t (clearOut s') = resetBlock t (clearOut s) := by
  obtain ⟨hpar, hinbox⟩ := h
  simp only [resetBlock, clearOut, hpar, hinbox]

/-- The first state is a fixed point of RESET at time 0 (R253). -/
theorem resetBlock_reset : resetBlock 0 (clearOut State.reset) = State.reset := rfl

/-- Settles O4: a state with the first state's parameters and inbox is reset to what the first state is reset to, itself. -/
theorem firstStateIsResetAtTimeZero : Obligations.FirstStateIsResetAtTimeZero := by
  intro s hpar hinbox hlast
  have hown : SameOwn State.reset s := ⟨hpar, hinbox⟩
  rw [exec_reset hlast.le, resetBlock_clearOut_congr 0 hown, resetBlock_reset]

end Sys2Proof.Machine
end
